-- ==== Sys2Proof/Word.lean ====
section
/-! DEFINITION. The words of the block: 32-bit registers, addresses and command words, and bytes of memory
(spec/00_scope.md R8, spec/20_memory.md R71 and R72). -/

namespace Sys2Proof

/-- A register, bus or command word, `XLEN` = 32 bits (R6, R8). -/
abbrev Word := BitVec 32

/-- One byte of memory (R12, R29). -/
abbrev Byte := BitVec 8

end Sys2Proof
end

