-- ==== Sys2Proof/Syntax.lean ====
section
/-! DEFINITION. The commands of "SPB command set 1.0" (spec/30_encoding.md R106), one constructor per row of
spec/opcode_table.json, and the peripheral register identifiers that REGRD and REGWR carry (spec/10_state.md R31). -/

namespace Sys2Proof

/-- The 20 assigned peripheral register identifiers (R31), in the order of the rule's table. -/
inductive RegId where
  | pllcon | pllcfg | pllstat | pllfeed | cclkcfg | clksrcsel
  | ct0 | ct1 | ct2 | rtcccr
  | sec | min | hour | dow | dom | month | year | doy
  | rtcilr
  | other
deriving DecidableEq, Repr

/-- The 22 commands (R106). `reg` is the operand of format R, `imm` the unsigned 16-bit operand of format I (R103, R104);
every other operand is implicit (R105). -/
inductive Instr where
  | regrd (reg : RegId)
  | regwr (reg : RegId)
  | feed
  | barrier
  | clkdis
  | rtcset
  | boot
  | pllsrch
  | pllchk
  | freqrb
  | rtcread
  | tsdef
  | rtcval
  | rtcinit
  | setsec (imm : BitVec 16)
  | setmin (imm : BitVec 16)
  | sethour (imm : BitVec 16)
  | setdow (imm : BitVec 16)
  | setdom (imm : BitVec 16)
  | setmon (imm : BitVec 16)
  | setyear (imm : BitVec 16)
  | setdoy (imm : BitVec 16)
deriving DecidableEq, Repr

/-- Every register identifier once, in the order of R31's table. -/
def RegId.all : List RegId :=
  [.pllcon, .pllcfg, .pllstat, .pllfeed, .cclkcfg, .clksrcsel, .ct0, .ct1, .ct2, .rtcccr,
   .sec, .min, .hour, .dow, .dom, .month, .year, .doy, .rtcilr, .other]

end Sys2Proof
end

