-- ==== Sys2Proof/Config.lean ====
section
/-! DEFINITION. What an implementation fixes: the parameter set `P` (spec/00_scope.md R6) as one plain record, the instance
P_TOY of that rule, and the free values, which are opaque: no proof can see what they are. -/

namespace Sys2Proof

/-- The parameter set `P` of R6. The machine carries one in its state and no step changes it, so a statement about every
state is a statement about every parameter set. -/
structure Params where
  /-- `M_BITS`, `N_BITS`, `D_BITS`: widths of the multiplier, pre-divider and CPU-divider fields. -/
  mBits : Nat
  nBits : Nat
  dBits : Nat
  /-- `FCCO_MIN_KHZ`, `FCCO_MAX_KHZ`: the lock range, both ends inclusive (R7). -/
  fccoMinKhz : Nat
  fccoMaxKhz : Nat
  /-- `CPU_MAX_KHZ`: the rated maximum, inclusive (R7). -/
  cpuMaxKhz : Nat
  /-- `F_INT_HZ`, `F_MAIN_HZ`, `F_RTC_HZ`: the three clock sources. -/
  fIntHz : Nat
  fMainHz : Nat
  fRtcHz : Nat
  /-- `STACK_TOP`. -/
  stackTop : Word
  /-- `S_IDATA`, `S_DATA`, `S_EDATA`, `S_EBSS`: the four linker-provided symbols (R76). -/
  sIdata : Word
  sData : Word
  sEdata : Word
  sEbss : Word
  /-- `EPOCH_DOW`: the weekday of the default epoch. -/
  epochDow : BitVec 3
  /-- `IsLeap` as plain data: the years at which the predicate differs from its default `year mod 4 = 0`.
  Every predicate on 16-bit years is one such list; the default is the empty list. -/
  leapFlips : List (BitVec 16)
  /-- `RegAddr`: the bus addresses of the registers, in the order of `RegId.all`. No rule depends on an address. -/
  regAddr : List Word
  /-- The exception vector table, `NVEC` entries, unused entries zero (R76 (e), R222). The block neither reads nor writes it. -/
  vectors : List Word
  /-- The address at which the vector table is placed (R76 (e), D35). -/
  vectorBase : Word
  /-- The entry numbers of the reset, hard-fault and tick handlers in the table, parameters as the table's contents are
  (R222, D35; log entry 2). -/
  resetEntry : Nat
  hardFaultEntry : Nat
  tickEntry : Nat
  /-- The premise `TickEnabled`: the tick interrupt can be dispatched (R213). -/
  tickEnabled : Bool
deriving DecidableEq, Repr

/-- The reset vector's value: what the reset-vector entry of the table holds (R76, R241). -/
def Params.resetVector (P : Params) : Word := P.vectors.getD P.resetEntry 0#32

/-- The instance P_TOY (R6). The vector table with its address and entry numbers, and `TickEnabled`, which R6 leaves open, are
the model's choice (DESIGN CHOICE, log entry 2). -/
def Params.toy : Params where
  mBits := 3
  nBits := 2
  dBits := 2
  fccoMinKhz := 40000
  fccoMaxKhz := 60000
  cpuMaxKhz := 50000
  fIntHz := 4000000
  fMainHz := 12000000
  fRtcHz := 32768
  stackTop := 0x10008000#32
  sIdata := 0x00001000#32
  sData := 0x10000000#32
  sEdata := 0x10000004#32
  sEbss := 0x10000008#32
  epochDow := 0#3
  leapFlips := []
  regAddr := [0x00#32, 0x01#32, 0x02#32, 0x03#32, 0x04#32, 0x05#32, 0x10#32, 0x11#32, 0x12#32, 0x13#32,
    0x14#32, 0x15#32, 0x16#32, 0x17#32, 0x18#32, 0x19#32, 0x1A#32, 0x1B#32, 0x1C#32, 0xFF#32]
  vectors := [0#32, 0#32, 0#32]
  vectorBase := 0#32
  resetEntry := 0
  hardFaultEntry := 1
  tickEntry := 2
  tickEnabled := true

/-- The `k`-th drawn word (`draw(any word)` of R13): a free value. -/
opaque Config.freeWord : Nat → Word

/-- The `k`-th drawn choice: a free value. -/
opaque Config.freeBool : Nat → Bool

end Sys2Proof
end

