-- ==== Sys2Proof/WellFormed.lean ====
section
/-! DEFINITION. Well-formedness. Every term of `Instr` is well formed: a register operand is one of the 20 assigned
identifiers and an immediate has 16 bits by their types, and what R108 calls illegal is a word with no term (see Decode).
What a term can get wrong is the parameter set, whose constraints R6, R7 and R76 give; each is one named check here. -/

namespace Sys2Proof

/-- R6: `1 ≤ M_BITS ≤ 16`, `1 ≤ N_BITS ≤ 8`, `1 ≤ D_BITS ≤ 8`. -/
abbrev Params.widthsOk (P : Params) : Prop :=
  (1 ≤ P.mBits ∧ P.mBits ≤ 16) ∧ (1 ≤ P.nBits ∧ P.nBits ≤ 8) ∧ (1 ≤ P.dBits ∧ P.dBits ≤ 8)

/-- R6: `FCCO_MIN_KHZ ≤ FCCO_MAX_KHZ`. -/
abbrev Params.lockRangeOk (P : Params) : Prop := P.fccoMinKhz ≤ P.fccoMaxKhz

/-- R6: the three source frequencies are positive. -/
abbrev Params.sourcesOk (P : Params) : Prop := 0 < P.fIntHz ∧ 0 < P.fMainHz ∧ 0 < P.fRtcHz

/-- R6, R76: `S_DATA ≤ S_EDATA ≤ S_EBSS`. -/
abbrev Params.regionsOk (P : Params) : Prop :=
  P.sData.toNat ≤ P.sEdata.toNat ∧ P.sEdata.toNat ≤ P.sEbss.toNat

/-- R76: `S_IDATA + (S_EDATA − S_DATA) ≤ 2^32`. -/
abbrev Params.imageOk (P : Params) : Prop :=
  P.sIdata.toNat + (P.sEdata.toNat - P.sData.toNat) ≤ 2 ^ 32

/-- R6: `EPOCH_DOW` is in 0..6. -/
abbrev Params.epochOk (P : Params) : Prop := P.epochDow.toNat ≤ 6

/-- R6: `RegAddr` gives each register an address and is injective. -/
abbrev Params.addressesOk (P : Params) : Prop :=
  P.regAddr.length = RegId.all.length ∧ P.regAddr.Nodup

/-- R6: `NVEC ≥ 2`; R76, R222: the table has the reset-vector entry and the entries of the hard-fault and tick handlers. -/
abbrev Params.vectorsOk (P : Params) : Prop :=
  2 ≤ P.vectors.length ∧ P.resetEntry < P.vectors.length ∧ P.hardFaultEntry < P.vectors.length ∧
  P.tickEntry < P.vectors.length

/-- The parameter set meets every constraint of R6 and R76. -/
abbrev Params.wellFormed (P : Params) : Prop :=
  P.widthsOk ∧ P.lockRangeOk ∧ P.sourcesOk ∧ P.regionsOk ∧ P.imageOk ∧ P.epochOk ∧ P.addressesOk ∧ P.vectorsOk

end Sys2Proof
end

