-- ==== Sys2Proof/Decode.lean ====
section
/-! DEFINITION. The command encoding (spec/30_encoding.md R102 to R108): a decoder that is total on 32-bit words and rejects
by name, and the encoder written from the same table. -/

namespace Sys2Proof

/-- Why a word is illegal (R108). -/
inductive DecodeError where
  /-- The opcode is none of the 22 of R106. -/
  | unassignedOpcode
  /-- A must-be-zero field of the word's format is not zero. -/
  | nonzeroField
  /-- The word has format R and `reg` is not an assigned RegId. -/
  | unassignedReg
deriving DecidableEq, Repr

/-- The 8-bit RegId (R31). -/
def RegId.code : RegId → BitVec 8
  | .pllcon => 0x00#8
  | .pllcfg => 0x01#8
  | .pllstat => 0x02#8
  | .pllfeed => 0x03#8
  | .cclkcfg => 0x04#8
  | .clksrcsel => 0x05#8
  | .ct0 => 0x10#8
  | .ct1 => 0x11#8
  | .ct2 => 0x12#8
  | .rtcccr => 0x13#8
  | .sec => 0x14#8
  | .min => 0x15#8
  | .hour => 0x16#8
  | .dow => 0x17#8
  | .dom => 0x18#8
  | .month => 0x19#8
  | .year => 0x1A#8
  | .doy => 0x1B#8
  | .rtcilr => 0x1C#8
  | .other => 0xFF#8

/-- The register an assigned RegId names; every other value is unassigned (R31). -/
def RegId.ofCode (c : BitVec 8) : Option RegId :=
  RegId.all.find? (fun r => r.code == c)

/-- `opcode` = `cmd[31:24]` (R103). -/
def opcodeOf (w : Word) : BitVec 8 := w.extractLsb' 24 8

/-- `reg` = `cmd[23:16]` (R103). -/
def regOf (w : Word) : BitVec 8 := w.extractLsb' 16 8

/-- `imm16` = `cmd[15:0]` (R103). -/
def immOf (w : Word) : BitVec 16 := w.extractLsb' 0 16

/-- A word of format Z: both lower fields must be zero (R103). -/
def formatZ (w : Word) (i : Instr) : Except DecodeError Instr :=
  if regOf w = 0#8 ∧ immOf w = 0#16 then .ok i else .error .nonzeroField

/-- A word of format R: `imm16` must be zero and `reg` assigned (R103, R108). -/
def formatR (w : Word) (f : RegId → Instr) : Except DecodeError Instr :=
  if immOf w = 0#16 then
    match RegId.ofCode (regOf w) with
    | some r => .ok (f r)
    | none => .error .unassignedReg
  else .error .nonzeroField

/-- A word of format I: the `reg` field must be zero (R103). -/
def formatI (w : Word) (f : BitVec 16 → Instr) : Except DecodeError Instr :=
  if regOf w = 0#8 then .ok (f (immOf w)) else .error .nonzeroField

/-- The command a word selects (R106), or why it is illegal (R107, R108). -/
def decode (w : Word) : Except DecodeError Instr :=
  match opcodeOf w with
  | 0x01#8 => formatR w .regrd
  | 0x02#8 => formatR w .regwr
  | 0x03#8 => formatZ w .feed
  | 0x04#8 => formatZ w .barrier
  | 0x05#8 => formatZ w .clkdis
  | 0x06#8 => formatZ w .rtcset
  | 0x07#8 => formatZ w .boot
  | 0x10#8 => formatZ w .pllsrch
  | 0x11#8 => formatZ w .pllchk
  | 0x12#8 => formatZ w .freqrb
  | 0x20#8 => formatZ w .rtcread
  | 0x30#8 => formatZ w .tsdef
  | 0x31#8 => formatZ w .rtcval
  | 0x32#8 => formatZ w .rtcinit
  | 0x38#8 => formatI w .setsec
  | 0x39#8 => formatI w .setmin
  | 0x3A#8 => formatI w .sethour
  | 0x3B#8 => formatI w .setdow
  | 0x3C#8 => formatI w .setdom
  | 0x3D#8 => formatI w .setmon
  | 0x3E#8 => formatI w .setyear
  | 0x3F#8 => formatI w .setdoy
  | _ => .error .unassignedOpcode

/-- The opcode of a command (R106). -/
def Instr.opcode : Instr → BitVec 8
  | .regrd _ => 0x01#8
  | .regwr _ => 0x02#8
  | .feed => 0x03#8
  | .barrier => 0x04#8
  | .clkdis => 0x05#8
  | .rtcset => 0x06#8
  | .boot => 0x07#8
  | .pllsrch => 0x10#8
  | .pllchk => 0x11#8
  | .freqrb => 0x12#8
  | .rtcread => 0x20#8
  | .tsdef => 0x30#8
  | .rtcval => 0x31#8
  | .rtcinit => 0x32#8
  | .setsec _ => 0x38#8
  | .setmin _ => 0x39#8
  | .sethour _ => 0x3A#8
  | .setdow _ => 0x3B#8
  | .setdom _ => 0x3C#8
  | .setmon _ => 0x3D#8
  | .setyear _ => 0x3E#8
  | .setdoy _ => 0x3F#8

/-- The `reg` field a command's word carries (R103). -/
def Instr.regField : Instr → BitVec 8
  | .regrd r | .regwr r => r.code
  | .feed | .barrier | .clkdis | .rtcset | .boot | .pllsrch | .pllchk | .freqrb | .rtcread | .tsdef | .rtcval
  | .rtcinit | .setsec _ | .setmin _ | .sethour _ | .setdow _ | .setdom _ | .setmon _ | .setyear _ | .setdoy _ => 0#8

/-- The `imm16` field a command's word carries (R103, R104). -/
def Instr.immField : Instr → BitVec 16
  | .setsec v | .setmin v | .sethour v | .setdow v | .setdom v | .setmon v | .setyear v | .setdoy v => v
  | .regrd _ | .regwr _ | .feed | .barrier | .clkdis | .rtcset | .boot | .pllsrch | .pllchk | .freqrb | .rtcread
  | .tsdef | .rtcval | .rtcinit => 0#16

/-- The word of a command: `{opcode, reg, imm16}` (R103). -/
def encode (i : Instr) : Word := i.opcode ++ i.regField ++ i.immField

/-- The mask of a command's row of R106: the bits its format fixes. -/
def Instr.mask : Instr → Word
  | .regrd _ | .regwr _ => 0xFF00FFFF#32
  | .setsec _ | .setmin _ | .sethour _ | .setdow _ | .setdom _ | .setmon _ | .setyear _ | .setdoy _ => 0xFFFF0000#32
  | .feed | .barrier | .clkdis | .rtcset | .boot | .pllsrch | .pllchk | .freqrb | .rtcread | .tsdef | .rtcval
  | .rtcinit => 0xFFFFFFFF#32

/-- The match value of a command's row of R106. -/
def Instr.matchWord (i : Instr) : Word := i.opcode ++ 0#24

/-- What the decoder reads from a command word given as a number, bit 0 its least significant bit; a command word is one
32-bit word (R102), and no byte order is observable (R71). -/
def decodeTableWord (nbits w : Nat) : Option Instr :=
  match decode (BitVec.ofNat 32 (w % 2 ^ nbits)) with
  | .ok i => some i
  | .error _ => none

end Sys2Proof
end

