-- ==== Sys2Proof/Machine/State.lean ====
section
/-! DEFINITION. The state of the block as plain data (spec/10_state.md R20 to R53), what its environment may do to it, and
the state after reset. -/

namespace Sys2Proof.Machine

open Sys2Proof

/-- Memory: a map from 32-bit byte addresses to bytes (R29), as its bytes other than zero in rising order of address.
An unlisted address reads as 0x00 (DESIGN CHOICE, log entry 3). -/
abbrev Memory := List Host.Cell

/-- PLLParameters, the fields of `PR` (R22). The fields have their largest widths; every write masks them to
`M_BITS`, `N_BITS`, `D_BITS`. -/
structure PllTriple where
  m : BitVec 16
  n : BitVec 8
  d : BitVec 8
deriving DecidableEq, Repr

/-- RtcTime: the eight fields of `TS` (R23) and of the calendar counters (R47). -/
structure RtcTime where
  sec : BitVec 6
  min : BitVec 6
  hour : BitVec 5
  dow : BitVec 3
  dom : BitVec 5
  month : BitVec 4
  year : BitVec 16
  doy : BitVec 12
deriving DecidableEq, Repr

/-- The raw words of one full read of CT0, CT1, CT2: the capture registers `CS[0..2]` (R24). -/
structure Capture where
  c0 : Word
  c1 : Word
  c2 : Word
deriving DecidableEq, Repr

/-- The run state (R27, R216). -/
inductive RunState where
  | running | faulted | halted
deriving DecidableEq, Repr

/-- Feed progress (R38). -/
inductive FeedState where
  | idle | armed
deriving DecidableEq, Repr

/-- The two fields of PLLCFG (R36), at their largest widths. -/
structure PllCfg where
  m : BitVec 16
  n : BitVec 8
deriving DecidableEq, Repr

/-- The PLL and clock register groups (R232) with the feed machinery behind the protected ones. -/
structure ClockRegs where
  /-- `PLLCON.live`: bit 0 `PLLE`, bit 1 `PLLC` (R34, R35). -/
  pllconLive : BitVec 2
  /-- `PLLCON.pend` (R34). -/
  pllconPend : Option (BitVec 2)
  /-- `PLLCFG.live` (R34, R36). -/
  pllcfgLive : PllCfg
  /-- `PLLCFG.pend` (R34). -/
  pllcfgPend : Option PllCfg
  /-- `feed` (R38): hidden, no read returns it. -/
  feed : FeedState
  /-- The model-only mark `refused` (R20, R44). -/
  refused : Bool
  /-- `CCLKCFG.d` (R45). -/
  cclkcfg : BitVec 8
  /-- `CLKSRCSEL.src` (R46). -/
  clksrcsel : BitVec 2
deriving DecidableEq, Repr

/-- The calendar register group (R232). -/
structure CalendarRegs where
  /-- The eight counters (R47). -/
  time : RtcTime
  /-- `CLKEN`, bit 0 of RTCCCR (R49). -/
  clken : Bool
  /-- `CCRX`, bits 31 to 1 of RTCCCR (R49). -/
  ccrx : BitVec 31
  /-- `TICKIF`, bit 0 of RTCILR (R51). -/
  tickif : Bool
deriving DecidableEq, Repr

/-- The ExceptionFrame: eight processor registers, opaque to the block (R224, D36). -/
structure Frame where
  w0 : Word
  w1 : Word
  w2 : Word
  w3 : Word
  w4 : Word
  w5 : Word
  w6 : Word
  w7 : Word
deriving DecidableEq, Repr

/-- The values an external reset leaves unspecified (R53, R240): each occurrence of a reset brings its own. -/
structure ResetDraws where
  msp : Word
  psp : Word
  pllcon : BitVec 2
  pllcfg : PllCfg
  cclkcfg : BitVec 8
  clksrcsel : BitVec 2
  tickif : Bool
  /-- The bytes of `[S_DATA, S_EBSS)`, the first at `S_DATA`; a missing byte is 0x00. -/
  ram : List Byte
  /-- `none`: the battery kept the calendar. `some`: first power-up or battery loss, with the counters, `CLKEN`, `CCRX`
  the calendar comes up with (R53, R235). -/
  battery : Option (RtcTime × Bool × BitVec 31)
deriving DecidableEq, Repr

/-- Who performs a bus transaction (R80). -/
inductive Master where
  | block | foreign
deriving DecidableEq, Repr

/-- One entry of the histories R11, R124 and R130 speak of. -/
inductive BusEvent where
  /-- A BusRead of `r` that returned `v` (R11). -/
  | read (who : Master) (r : RegId) (v : Word)
  /-- A BusWrite of `v` to `r` (R11). -/
  | write (who : Master) (r : RegId) (v : Word)
  /-- A MemRead of one byte (R12). -/
  | memRead (addr : Nat) (b : Byte)
  /-- A MemWrite of one byte (R12). -/
  | memWrite (addr : Nat) (b : Byte)
  /-- The event `Barrier` (R124). -/
  | barrier
  /-- `MSP <- v` (R130 step 1). -/
  | setMsp (v : Word)
  /-- `PSP <- v` (R130 step 1). -/
  | setPsp (v : Word)
deriving DecidableEq, Repr

/-- A bus transaction of a foreign master (R80). -/
inductive BusOp where
  | read (r : RegId)
  | write (r : RegId) (v : Word)
deriving DecidableEq, Repr

/-- The watchdog's `feed()` as it appears on the bus: one or more transactions on OTHER, a read for `none` and a write of `v`
for `some v` (R214). -/
structure WatchdogFeed where
  first : Option Word
  rest : List (Option Word)
deriving DecidableEq, Repr

/-- One step of an agent other than the block and the host (R50, R80, R214, R217, R218, R219). -/
inductive EnvEvent where
  /-- `RtcEnv` replaces the counters by `t` and, if `tick`, sets `TICKIF` (R50). -/
  | rtcStep (t : RtcTime) (tick : Bool)
  /-- `RtcEnv` steps by the optional successor `RtcSucc` and sets `TICKIF` (spec/93, I14). -/
  | rtcSecond
  /-- A foreign master performs one bus transaction (R80). -/
  | foreign (op : BusOp)
  /-- The tick handler runs (R214): with `ack` it clears `TICKIF`; then comes the watchdog's `feed()`. -/
  | tick (ack : Bool) (wd : WatchdogFeed)
  /-- `Fault(frame)` (R217): `some` frame for the hard-fault handler, `none` for the default handler (R223). -/
  | fault (frame : Option Frame)
  /-- The fault handler halts (R218). -/
  | halt
  /-- External hardware reset (R219, R240). -/
  | reset (u : ResetDraws)
deriving DecidableEq, Repr

/-- What the other agents do between two consecutive transactions, or between two commands (R80). -/
abbrev Slot := List EnvEvent

/-- One access of the host to the host port at an offset from the block's base (R101). -/
inductive HostAct where
  | write (off : Word) (v : Word)
  | read (off : Word)
deriving DecidableEq, Repr

/-- The command in flight between two steps: one whose tear-free read has not yet found two equal full reads (R173). -/
inductive InFlight where
  | rtcread | rtcinit | boot
deriving DecidableEq, Repr

/-- The whole state. -/
structure State where
  /-- The parameter set `P` (R6); no step changes it (log entry 2). -/
  params : Params
  /-- `x[0]` to `x[3]`, the operand registers A0 to A3 (R21). -/
  x0 : Word
  x1 : Word
  x2 : Word
  x3 : Word
  /-- `PR` (R22). -/
  pr : PllTriple
  /-- `TS` (R23). -/
  ts : RtcTime
  /-- `CS[0..2]` (R24). -/
  cs : Capture
  /-- `STATUS` (R26). -/
  status : Word
  /-- `RUN` (R27). -/
  run : RunState
  /-- `BOOTED` (R27). -/
  booted : Bool
  /-- `MSP` (R28). -/
  msp : Word
  /-- `PSP` (R28). -/
  psp : Word
  /-- `Mem` (R29). -/
  mem : Memory
  /-- The PLL and clock registers, `feed` and `refused` (R34 to R46). -/
  clk : ClockRegs
  /-- The calendar registers (R47 to R51). -/
  rtc : CalendarRegs
  /-- The ExceptionFrame captured by a fault (R217), until the halt (R224; log entry 11) or a reset (log entry 22)
  discards it. -/
  frame : Option Frame
  /-- The command in flight between two steps, if any (R100, R173). -/
  inflight : Option InFlight
  /-- The tick handler returned without clearing `TICKIF` and is dispatched again for ever, each run making these
  transactions (R214; log entry 12). -/
  tickHang : Option WatchdogFeed
  /-- The host's pending accesses, the next one first (R100, R101; log entry 9). -/
  host : List HostAct
  /-- The word the host's last read returned (R101; log entry 19). -/
  rdata : Word
  /-- The coming slots of the other agents, the next one first (R80; log entry 6). -/
  env : List Slot
  /-- The slots that follow, over and over, when `env` has run out; empty: the other agents rest. -/
  envLoop : List Slot
  /-- The bus history (R11), newest entry first; no definition reads it (log entry 8). -/
  hist : List BusEvent
  /-- How many free values have been drawn: the index of the next one (R13; log entry 4). -/
  draws : Nat
deriving DecidableEq, Repr

/-- Why the machine stops with a fault. -/
inductive Fault where
  /-- Raised by BOOT's copy when `S_IDATA + i` is no 32-bit address, which R76 excludes: only a parameter set that is
  not well formed reaches it. Safe: the machine stops where R76 leaves it no meaning (log entry 16). -/
  | noSuchAddress (addr : Nat)
deriving DecidableEq, Repr

/-- Why an instruction has no meaning. -/
inductive Refusal where
  /-- Raised by `exec` for an instruction not modelled yet; every instruction of this model has its meaning. Safe. -/
  | notModelled (mnemonic : String)
deriving DecidableEq, Repr

/-- All-zero calendar fields. -/
def RtcTime.zero : RtcTime := ⟨0#6, 0#6, 0#5, 0#3, 0#5, 0#4, 0#16, 0#12⟩

/-- The machine right after its first reset (R53, R240). The block's own registers, STATUS, RUN, BOOTED, `refused`, the
pending halves and `feed` are R53's. MSP, PSP, memory, PLLCON, PLLCFG, CCLKCFG, CLKSRCSEL, TICKIF and the calendar are
unspecified there and zero here (DESIGN CHOICE, log entry 1); the parameter set is P_TOY (DESIGN CHOICE, log entry 2).
No ExceptionFrame is captured: R20 and R53 give it no value (DESIGN CHOICE, log entry 22). No host access and no step of another agent is waiting. -/
def State.reset : State where
  params := Params.toy
  x0 := 0#32
  x1 := 0#32
  x2 := 0#32
  x3 := 0#32
  pr := ⟨0#16, 0#8, 0#8⟩
  ts := RtcTime.zero
  cs := ⟨0#32, 0#32, 0#32⟩
  status := 0#32
  run := .running
  booted := false
  msp := 0#32
  psp := 0#32
  mem := []
  clk :=
    { pllconLive := 0#2, pllconPend := none, pllcfgLive := ⟨0#16, 0#8⟩, pllcfgPend := none,
      feed := .idle, refused := false, cclkcfg := 0#8, clksrcsel := 0#2 }
  rtc := { time := RtcTime.zero, clken := false, ccrx := 0#31, tickif := false }
  frame := none
  inflight := none
  tickHang := none
  host := []
  rdata := 0#32
  env := []
  envLoop := []
  hist := []
  draws := 0

end Sys2Proof.Machine
end

