-- ==== Sys2Proof/Machine/Arith.lean ====
section
/-! DEFINITION. The integer frequency arithmetic of unit U1 (spec/00_scope.md R15, spec/41_pll_arithmetic.md R150 to R156):
natural numbers, no wrap, one product and then one truncating division. -/

namespace Sys2Proof.Machine

open Sys2Proof

/-- `M_MAX` (R6). -/
def mMax (P : Params) : Nat := 2 ^ P.mBits - 1

/-- `N_MAX` (R6). -/
def nMax (P : Params) : Nat := 2 ^ P.nBits - 1

/-- `D_MAX` (R6). -/
def dMax (P : Params) : Nat := 2 ^ P.dBits - 1

/-- `Fcco(m, n, f_in)` (R15). -/
def fcco (m n f : Nat) : Nat := 2 * (m + 1) * f / (n + 1)

/-- `Fcpu(m, n, d, f_in)` (R15). -/
def fcpu (m n d f : Nat) : Nat := fcco m n f / (d + 1)

/-- `InLock(f)` (R7, R15). -/
def inLock (P : Params) (f : Nat) : Bool := decide (P.fccoMinKhz ≤ f ∧ f ≤ P.fccoMaxKhz)

/-- `CpuOk(c)` (R7, R15). -/
def cpuOk (P : Params) (c : Nat) : Bool := decide (c ≤ P.cpuMaxKhz)

/-- `Viable(m, n, d, f_in)` (R15, R151). -/
def viable (P : Params) (m n d f : Nat) : Bool := inLock P (fcco m n f) && cpuOk P (fcpu m n d f)

/-- A frequency in a 32-bit register: it saturates at `2^32 − 1` (R155, R157, D11). -/
def saturate (f : Nat) : Word := BitVec.ofNat 32 (Nat.min f (2 ^ 32 - 1))

/-- `SrcHz(src)` for the three assigned selector values (R46). -/
def srcHz (P : Params) (src : BitVec 2) : Option Nat :=
  match src with
  | 0#2 => some P.fIntHz
  | 1#2 => some P.fMainHz
  | 2#2 => some P.fRtcHz
  | _ => none

end Sys2Proof.Machine
end

