-- ==== Sys2Proof/Machine/Calendar.lean ====
section
/-! DEFINITION. The calendar value and its validity (spec/00_scope.md R16, spec/43_calendar.md R180 to R183), and the optional
successor of spec/93_implementation_defined.md section 2. -/

namespace Sys2Proof.Machine

open Sys2Proof

/-- `IsLeap(y)`: by default `y mod 4 = 0`, turned round at the parameter's listed years (R6, R16). -/
def isLeap (P : Params) (y : BitVec 16) : Bool :=
  xor (decide (y.toNat % 4 = 0)) (P.leapFlips.contains y)

/-- `DaysInMonth(mo, y)`; none where R16 leaves it undefined (`mo` = 0 or `mo` > 12). Ten of the lengths are the spec's own
general knowledge (PRESUMED, log entry 20). -/
def daysInMonth (P : Params) (mo : Nat) (y : BitVec 16) : Option Nat :=
  match mo with
  | 1 | 3 | 5 | 7 | 8 | 10 | 12 => some 31
  | 4 | 6 | 9 | 11 => some 30
  | 2 => some (if isLeap P y then 29 else 28)
  | _ => none

/-- `DaysInYear(y)` (R16). -/
def daysInYear (P : Params) (y : BitVec 16) : Nat := if isLeap P y then 366 else 365

/-- `d <= DaysInMonth(mo, y)`, false where the month has no length (R181, I20). -/
def fitsMonth (P : Params) (d mo : Nat) (y : BitVec 16) : Bool :=
  match daysInMonth P mo y with
  | some k => decide (d ≤ k)
  | none => false

/-- `Valid(t)` (R181). -/
def RtcTime.valid (P : Params) (t : RtcTime) : Bool :=
  decide (t.sec.toNat ≤ 59) && decide (t.min.toNat ≤ 59) && decide (t.hour.toNat ≤ 23) && decide (t.dow.toNat ≤ 6)
    && decide (1 ≤ t.month.toNat ∧ t.month.toNat ≤ 12)
    && decide (1 ≤ t.dom.toNat) && fitsMonth P t.dom.toNat t.month.toNat t.year
    && decide (1 ≤ t.doy.toNat ∧ t.doy.toNat ≤ daysInYear P t.year)

/-- `EPOCH` (R183). -/
def epoch (P : Params) : RtcTime :=
  { sec := 0#6, min := 0#6, hour := 0#5, dow := P.epochDow, dom := 1#5, month := 1#4, year := 1970#16, doy := 1#12 }

/-- The day step of `RtcSucc` (spec/93, section 2): the date after the day of `t`, at 00:00:00. -/
def RtcTime.nextDay (P : Params) (t : RtcTime) : RtcTime :=
  let dow := BitVec.ofNat 3 ((t.dow.toNat + 1) % 7)
  if fitsMonth P (t.dom.toNat + 1) t.month.toNat t.year then
    { t with sec := 0#6, min := 0#6, hour := 0#5, dow := dow, dom := t.dom + 1#5, doy := t.doy + 1#12 }
  else if t.month.toNat + 1 ≤ 12 then
    { t with sec := 0#6, min := 0#6, hour := 0#5, dow := dow, dom := 1#5, month := t.month + 1#4,
             doy := t.doy + 1#12 }
  else
    { sec := 0#6, min := 0#6, hour := 0#5, dow := dow, dom := 1#5, month := 1#4, year := t.year + 1#16, doy := 1#12 }

/-- `RtcSucc(t)` on a valid time (spec/93, section 2): one second later. -/
def RtcTime.succ (P : Params) (t : RtcTime) : RtcTime :=
  if t.sec.toNat + 1 ≤ 59 then { t with sec := t.sec + 1#6 }
  else if t.min.toNat + 1 ≤ 59 then { t with sec := 0#6, min := t.min + 1#6 }
  else if t.hour.toNat + 1 ≤ 23 then { t with sec := 0#6, min := 0#6, hour := t.hour + 1#5 }
  else t.nextDay P

end Sys2Proof.Machine
end

