-- ==== Sys2Proof/Machine/Operands.lean ====
section
/-! DEFINITION. The layouts of the words that registers are read and written as (spec/10_state.md R22, R35 to R37, R45 to R49,
R51), and the masking to the parameter widths. -/

namespace Sys2Proof.Machine

open Sys2Proof

/-- `v` with only its low `k` bits kept. -/
def keepLow {n : Nat} (k : Nat) (v : BitVec n) : BitVec n := BitVec.ofNat n (v.toNat % 2 ^ k)

/-- A triple with its fields cut to `M_BITS`, `N_BITS`, `D_BITS` (R22). -/
def PllTriple.fit (P : Params) (t : PllTriple) : PllTriple :=
  { m := keepLow P.mBits t.m, n := keepLow P.nBits t.n, d := keepLow P.dBits t.d }

/-- PR as the host reads it: `{zext_8(d), zext_8(n), zext_16(m)}` (R22, R101). -/
def PllTriple.word (t : PllTriple) : Word := t.d ++ t.n ++ t.m

/-- PR as a host write leaves it: each field keeps its low bits, the rest is dropped (R22). -/
def PllTriple.ofWord (P : Params) (v : Word) : PllTriple :=
  PllTriple.fit P { m := v.extractLsb' 0 16, n := v.extractLsb' 16 8, d := v.extractLsb' 24 8 }

/-- The triple of three numbers in the search space (R152). -/
def PllTriple.ofNats (m n d : Nat) : PllTriple :=
  { m := BitVec.ofNat 16 m, n := BitVec.ofNat 8 n, d := BitVec.ofNat 8 d }

/-- PLLCFG's two fields cut to `M_BITS` and `N_BITS` (R36). -/
def PllCfg.fit (P : Params) (c : PllCfg) : PllCfg := { m := keepLow P.mBits c.m, n := keepLow P.nBits c.n }

/-- The fields a word written to PLLCFG carries (R36). -/
def PllCfg.ofWord (P : Params) (v : Word) : PllCfg :=
  PllCfg.fit P { m := v.extractLsb' 0 16, n := v.extractLsb' 16 8 }

/-- PLLCFG as it is read: `m` at bit 0, `n` at bit 16 (R36). -/
def PllCfg.word (c : PllCfg) : Word := 0#8 ++ c.n ++ c.m

/-- PLLSTAT (R37): the live `m` at bit 0, the live `n` at bit 16, `PLLE` at bit 24, `PLLC` at bit 25. -/
def pllstatWord (con : BitVec 2) (c : PllCfg) : Word := 0#6 ++ con ++ c.n ++ c.m

/-- The bits `k - 1` to 0 of a word, as a number. -/
def lowField (k : Nat) (v : Word) : Nat := v.toNat % 2 ^ k

/-- The bits `16 + k - 1` to 16 of a word, as a number. -/
def midField (k : Nat) (v : Word) : Nat := v.toNat / 2 ^ 16 % 2 ^ k

/-- CT0 (R48): DOW at 26:24, HOUR at 20:16, MIN at 13:8, SEC at 5:0. -/
def RtcTime.ct0 (t : RtcTime) : Word := 0#5 ++ t.dow ++ 0#3 ++ t.hour ++ 0#2 ++ t.min ++ 0#2 ++ t.sec

/-- CT1 (R48): YEAR at 31:16, MONTH at 11:8, DOM at 4:0. -/
def RtcTime.ct1 (t : RtcTime) : Word := t.year ++ 0#4 ++ t.month ++ 0#3 ++ t.dom

/-- CT2 (R48): DOY at 11:0. -/
def RtcTime.ct2 (t : RtcTime) : Word := 0#20 ++ t.doy

/-- The three words a full read of an unchanging calendar returns (R48). -/
def RtcTime.words (t : RtcTime) : Capture := { c0 := t.ct0, c1 := t.ct1, c2 := t.ct2 }

/-- `DecodeCT(c0, c1, c2)` (R48). -/
def Capture.decodeCT (c : Capture) : RtcTime :=
  { sec := c.c0.extractLsb' 0 6, min := c.c0.extractLsb' 8 6, hour := c.c0.extractLsb' 16 5,
    dow := c.c0.extractLsb' 24 3, dom := c.c1.extractLsb' 0 5, month := c.c1.extractLsb' 8 4,
    year := c.c1.extractLsb' 16 16, doy := c.c2.extractLsb' 0 12 }

/-- RTCCCR as it is read: `CLKEN` at bit 0, `CCRX` at 31:1 (R49). -/
def CalendarRegs.ccrWord (r : CalendarRegs) : Word := r.ccrx ++ BitVec.ofBool r.clken

/-- RTCCCR as a write leaves it (R49). -/
def CalendarRegs.putCcr (r : CalendarRegs) (v : Word) : CalendarRegs :=
  { r with clken := v.getLsbD 0, ccrx := v.extractLsb' 1 31 }

/-- RTCILR as a write leaves it: a 1 in bit 0 clears `TICKIF` (R51; PRESUMED, log entry 20). -/
def CalendarRegs.putIlr (r : CalendarRegs) (v : Word) : CalendarRegs :=
  { r with tickif := r.tickif && !v.getLsbD 0 }

/-- The 16-bit immediate in a narrower field of TS (R104: it is narrowed only after its range check). -/
def immTo (n : Nat) (v : BitVec 16) : BitVec n := v.setWidth n

end Sys2Proof.Machine
end

