-- ==== Sys2Proof/Machine/Feed.lean ====
section
/-! DEFINITION. The feed machinery of the protected registers PLLCON and PLLCFG (spec/10_state.md R34, R38 to R44). -/

namespace Sys2Proof.Machine

open Sys2Proof

/-- `anyPend` (R39): PLLCON or PLLCFG has a pending value. -/
def ClockRegs.anyPend (c : ClockRegs) : Bool := c.pllconPend.isSome || c.pllcfgPend.isSome

/-- The pair is void and what is pending is lost: both pending halves empty, `feed` Idle (R42, R43). -/
def ClockRegs.discard (c : ClockRegs) : ClockRegs :=
  { c with pllconPend := none, pllcfgPend := none, feed := .idle }

/-- The pair is complete: every pending value becomes live, `feed` Idle (R41). -/
def ClockRegs.commit (c : ClockRegs) : ClockRegs :=
  { c with pllconLive := c.pllconPend.getD c.pllconLive, pllcfgLive := c.pllcfgPend.getD c.pllcfgLive,
           pllconPend := none, pllcfgPend := none, feed := .idle }

/-- A case the source does not settle (R39 (c), R40, R44): `refused` is set, and for each pending value a free choice says
whether it is still there for the next complete pair or is lost, the draw of R44 and D15 (log entry 5). -/
def ClockRegs.unsettle (k : Nat) (c : ClockRegs) : ClockRegs :=
  { c with refused := true,
           pllconPend := if Config.freeBool k then c.pllconPend else none,
           pllcfgPend := if Config.freeBool (k + 1) then c.pllcfgPend else none }

/-- Clock registers after a transaction's part in the feed machinery, with the index of the next free value. -/
abbrev Fed := ClockRegs × Nat

/-- A transaction that is neither a PLLFEED write nor a protected write (R43, R44). -/
def ClockRegs.intervene (k : Nat) (c : ClockRegs) : Fed :=
  match c.feed with
  | .armed => (c.discard, k)
  | .idle => if c.anyPend then (c.unsettle k, k + 2) else (c, k)

/-- A write to a protected register, `put` storing its pending value (R39). -/
def ClockRegs.protectedWrite (k : Nat) (put : ClockRegs → ClockRegs) (c : ClockRegs) : Fed :=
  match c.feed with
  | .armed => (put c.discard, k)
  | .idle => if c.anyPend then ((put c).unsettle k, k + 2) else (put c, k)

/-- A write of `v` to PLLFEED; only its bits 7 to 0 are compared (R38, R40 to R42). -/
def ClockRegs.feedWrite (k : Nat) (v : Word) (c : ClockRegs) : Fed :=
  if v.extractLsb' 0 8 = 0xAA#8 then
    match c.feed with
    | .idle => ({ c with feed := .armed }, k)
    | .armed => if c.anyPend then (c.unsettle k, k + 2) else (c, k)
  else if v.extractLsb' 0 8 = 0x55#8 ∧ c.feed = .armed then (c.commit, k)
  else (c.discard, k)

/-- `PLLCON.pend <- v[1:0]` (R35). -/
def ClockRegs.pendPllcon (v : Word) (c : ClockRegs) : ClockRegs :=
  { c with pllconPend := some (v.extractLsb' 0 2) }

/-- `PLLCFG.pend <-` the fields of `v` (R36). -/
def ClockRegs.pendPllcfg (P : Params) (v : Word) (c : ClockRegs) : ClockRegs :=
  { c with pllcfgPend := some (PllCfg.ofWord P v) }

end Sys2Proof.Machine
end

