-- ==== Sys2Proof/Machine/Flags.lean ====
section
/-! DEFINITION. The STATUS register (spec/10_state.md R26): its ten flags, their bits, and the clear-then-set policy. -/

namespace Sys2Proof.Machine

open Sys2Proof

/-- The ten flags of R26. -/
inductive Flag where
  | exact | viable | inlock | cpuok | valid | reject | replaced | illegal | done | rsvsrc
deriving DecidableEq, Repr

/-- The bit of a flag (R26). -/
def Flag.bit : Flag → Nat
  | .exact => 0
  | .viable => 1
  | .inlock => 2
  | .cpuok => 3
  | .valid => 4
  | .reject => 5
  | .replaced => 6
  | .illegal => 7
  | .done => 8
  | .rsvsrc => 9

/-- The STATUS word with exactly these flags set; bits 31 to 10 are zero (R26). -/
def statusOf : List Flag → Word
  | [] => 0#32
  | f :: fs => (1#32 <<< f.bit) ||| statusOf fs

/-- A flag that is set when `p` holds. -/
def flagIf (p : Bool) (f : Flag) : List Flag := if p then [f] else []

/-- The end of a command: STATUS is cleared and exactly `fs` set (R26), and not before it (DEDUCED, log entry 10). -/
def State.setFlags (s : State) (fs : List Flag) : State := { s with status := statusOf fs }

/-- A refused word: STATUS becomes exactly `ILLEGAL`, nothing else changes (R108). -/
def State.illegal (s : State) : State := s.setFlags [.illegal]

end Sys2Proof.Machine
end

