-- ==== Sys2Proof/Machine/Memory.lean ====
section
/-! DEFINITION. One-byte reads and writes of memory (spec/20_memory.md R71, R72, R78), and the canonical form of the list that
holds it. -/

namespace Sys2Proof.Machine

open Sys2Proof

/-- What an address with no listed byte reads as (DESIGN CHOICE, log entry 3). -/
def Memory.unlisted : Byte := 0#8

/-- `MemRead(addr, 1)` (R12, R72). -/
def Memory.read : Memory → Nat → Byte
  | [], _ => Memory.unlisted
  | (b, v) :: rest, a => if a = b then v else Memory.read rest a

/-- `MemWrite(addr, 1, v)` (R12, R72), in canonical form: a byte that an unlisted address reads as is not listed. -/
def Memory.write : Memory → Nat → Byte → Memory
  | [], a, v => if v = Memory.unlisted then [] else [(a, v)]
  | (b, w) :: rest, a, v =>
    if a < b then
      if v = Memory.unlisted then (b, w) :: rest else (a, v) :: (b, w) :: rest
    else if a = b then
      if v = Memory.unlisted then rest else (a, v) :: rest
    else (b, w) :: Memory.write rest a v

/-- The canonical form above a bound: addresses rise strictly from `lo`, every address has 32 bits, and no listed byte is
one an unlisted address reads as. -/
def Memory.wfFrom : Nat → Memory → Bool
  | _, [] => true
  | lo, (b, v) :: rest =>
    decide (lo ≤ b) && decide (b < 2 ^ 32) && decide (v ≠ Memory.unlisted) && Memory.wfFrom (b + 1) rest

/-- The memory is in canonical form. -/
def Memory.wf (m : Memory) : Bool := Memory.wfFrom 0 m

/-- The bytes `bs`, the first at `a`, are written to the `n` addresses from `a` on; a missing byte is 0x00. -/
def Memory.fill : Nat → Nat → List Byte → Memory → Memory
  | 0, _, _, m => m
  | n + 1, a, bs, m => Memory.fill n (a + 1) bs.tail (Memory.write m a (bs.headD 0#8))

end Sys2Proof.Machine
end

