-- ==== Sys2Proof/Machine/Ops.lean ====
section
/-! DEFINITION. The shared operations: bus transactions (spec/10_state.md R31 to R51), the steps of the other agents
(spec/20_memory.md R80), taking a fault, halting and reset (spec/60_exceptions.md R216 to R219), and the sequencing of a
command's transactions. -/

namespace Sys2Proof.Machine

open Sys2Proof

/-- An entry is added to the bus history (R11). -/
def State.log (e : BusEvent) (s : State) : State := { s with hist := e :: s.hist }

/-- The PLL and clock registers and the draw index after a step of the feed machinery. -/
def State.putFed (f : Fed) (s : State) : State := { s with clk := f.1, draws := f.2 }

/-- The part in the feed machinery of every transaction that is neither a PLLFEED write nor a protected write. -/
def State.intervene (s : State) : State := s.putFed (s.clk.intervene s.draws)

/-- The word a read of `r` returns, or none where it is a draw: PLLFEED is write-only (R32), and OTHER stands for
registers outside the block (R31). -/
def readView (clk : ClockRegs) (rtc : CalendarRegs) (r : RegId) : Option Word :=
  match r with
  | .pllcon => some (clk.pllconLive.setWidth 32)
  | .pllcfg => some clk.pllcfgLive.word
  | .pllstat => some (pllstatWord clk.pllconLive clk.pllcfgLive)
  | .pllfeed => none
  | .cclkcfg => some (clk.cclkcfg.setWidth 32)
  | .clksrcsel => some (clk.clksrcsel.setWidth 32)
  | .ct0 => some rtc.time.ct0
  | .ct1 => some rtc.time.ct1
  | .ct2 => some rtc.time.ct2
  | .rtcccr => some rtc.ccrWord
  | .sec => some (rtc.time.sec.setWidth 32)
  | .min => some (rtc.time.min.setWidth 32)
  | .hour => some (rtc.time.hour.setWidth 32)
  | .dow => some (rtc.time.dow.setWidth 32)
  | .dom => some (rtc.time.dom.setWidth 32)
  | .month => some (rtc.time.month.setWidth 32)
  | .year => some (rtc.time.year.setWidth 32)
  | .doy => some (rtc.time.doy.setWidth 32)
  | .rtcilr => some ((BitVec.ofBool rtc.tickif).setWidth 32)
  | .other => none

/-- A read's value: the register's word, or the next free word where the rules give a draw (log entry 4). -/
def State.readValue (r : RegId) (s : State) : Word × State :=
  match readView s.clk s.rtc r with
  | some v => (v, s)
  | none => (Config.freeWord s.draws, { s with draws := s.draws + 1 })

/-- `BusRead(r)` by `who` (R11): the feed machinery first (R43, R44), then the read itself. -/
def State.busRead (who : Master) (r : RegId) (s : State) : Word × State :=
  let p := s.intervene.readValue r
  (p.1, p.2.log (.read who r p.1))

/-- What a write of `v` stores in the clock registers CCLKCFG and CLKSRCSEL (R45, R46). -/
def ClockRegs.put (P : Params) (r : RegId) (v : Word) (c : ClockRegs) : ClockRegs :=
  match r with
  | .cclkcfg => { c with cclkcfg := keepLow P.dBits (v.extractLsb' 0 8) }
  | .clksrcsel => { c with clksrcsel := v.extractLsb' 0 2 }
  | _ => c

/-- What a write of `v` stores in the calendar registers (R47, R49, R51). -/
def CalendarRegs.put (r : RegId) (v : Word) (c : CalendarRegs) : CalendarRegs :=
  match r with
  | .rtcccr => c.putCcr v
  | .rtcilr => c.putIlr v
  | .sec => { c with time := { c.time with sec := v.extractLsb' 0 6 } }
  | .min => { c with time := { c.time with min := v.extractLsb' 0 6 } }
  | .hour => { c with time := { c.time with hour := v.extractLsb' 0 5 } }
  | .dow => { c with time := { c.time with dow := v.extractLsb' 0 3 } }
  | .dom => { c with time := { c.time with dom := v.extractLsb' 0 5 } }
  | .month => { c with time := { c.time with month := v.extractLsb' 0 4 } }
  | .year => { c with time := { c.time with year := v.extractLsb' 0 16 } }
  | .doy => { c with time := { c.time with doy := v.extractLsb' 0 12 } }
  | _ => c

/-- `BusWrite(r, v)` by `who` (R11). A write to a read-only register or to OTHER changes no register value, and is still a
transaction (R32). -/
def State.busWrite (who : Master) (r : RegId) (v : Word) (s : State) : State :=
  (match r with
    | .pllfeed => s.putFed (s.clk.feedWrite s.draws v)
    | .pllcon => s.putFed (s.clk.protectedWrite s.draws (ClockRegs.pendPllcon v))
    | .pllcfg => s.putFed (s.clk.protectedWrite s.draws (ClockRegs.pendPllcfg s.params v))
    | r =>
      let t := s.intervene
      { t with clk := t.clk.put s.params r v, rtc := t.rtc.put r v }).log (.write who r v)

/-- Taking a fault (R217, R223): RUN leaves Running and the frame is captured; the command in flight is abandoned where it
stands. In Faulted and Halted nothing changes (R221). -/
def State.takeFault (frame : Option Frame) (s : State) : State :=
  if s.run = .running then { s with run := .faulted, frame := frame, inflight := none, tickHang := none } else s

/-- The fault handler halts (R218); the frame is discarded (R224; DEDUCED, log entry 11). There is no return from a fault (R221). -/
def State.halt (s : State) : State :=
  if s.run = .faulted then { s with run := .halted, frame := none } else s

/-- External hardware reset (R53, R240, R242), with the values `u` for what reset leaves unspecified
(the rest of memory and the model's own fields are kept: DESIGN CHOICE, log entry 17). A captured ExceptionFrame, for which
R20 and R53 give no value after reset, is discarded (DESIGN CHOICE, log entry 22). -/
def State.hwReset (u : ResetDraws) (s : State) : State :=
  let P := s.params
  { s with
    x0 := 0#32, x1 := 0#32, x2 := 0#32, x3 := 0#32
    pr := ⟨0#16, 0#8, 0#8⟩
    ts := RtcTime.zero
    cs := ⟨0#32, 0#32, 0#32⟩
    status := 0#32
    run := .running
    booted := false
    msp := u.msp
    psp := u.psp
    mem := Memory.fill (P.sEbss.toNat - P.sData.toNat) P.sData.toNat u.ram s.mem
    clk :=
      { pllconLive := u.pllcon, pllconPend := none, pllcfgLive := u.pllcfg.fit P, pllcfgPend := none,
        feed := .idle, refused := false, cclkcfg := keepLow P.dBits u.cclkcfg, clksrcsel := u.clksrcsel }
    rtc :=
      match u.battery with
      | none => { s.rtc with tickif := u.tickif }
      | some (t, en, x) => { time := t, clken := en, ccrx := x, tickif := u.tickif }
    frame := none
    inflight := none
    tickHang := none }

/-- One transaction of a foreign master (R80). -/
def State.foreignOp (op : BusOp) (s : State) : State :=
  match op with
  | .read r => (s.busRead .foreign r).2
  | .write r v => s.busWrite .foreign r v

/-- One transaction of the watchdog's `feed()` (R214). -/
def watchdogOp : Option Word → BusOp
  | none => .read .other
  | some v => .write .other v

/-- The transactions of the watchdog's `feed()`, one or more, in their order (R214). -/
def WatchdogFeed.ops (wd : WatchdogFeed) : List BusOp := watchdogOp wd.first :: wd.rest.map watchdogOp

/-- The watchdog's `feed()` on the bus: its transactions on OTHER (R214). -/
def State.watchdog (wd : WatchdogFeed) (s : State) : State := wd.ops.foldl (fun t op => t.foreignOp op) s

/-- The tick handler, dispatched when `TICKIF` is set and the interrupt enabled (R51, R213, R214). One that returns
with `TICKIF` still set is dispatched again at once, for ever: that is `tickHang` (DEDUCED, log entry 12). -/
def State.tickHandler (ack : Bool) (wd : WatchdogFeed) (s : State) : State :=
  if s.rtc.tickif && s.params.tickEnabled then
    let t := (if ack then s.busWrite .foreign .rtcilr 1#32 else s).watchdog wd
    if ack then t else { t with tickHang := some wd }
  else s

/-- The hung tick handler, dispatched again at once, makes its transactions once more (R214; the same ones in each run:
DESIGN CHOICE, log entry 12). -/
def State.tickAgain (wd : WatchdogFeed) (s : State) : State := if s.run = .running then s.watchdog wd else s

/-- A step of the calendar agent (R50): it acts only while `CLKEN` = 1 (on TICKIF: DEDUCED, log entry 14). -/
def State.calendarStep (t : RtcTime) (tick : Bool) (s : State) : State :=
  if s.rtc.clken then { s with rtc := { s.rtc with time := t, tickif := s.rtc.tickif || tick } } else s

/-- A step of the calendar agent by `RtcSucc` (spec/93, section 2), which on an invalid time is a draw. -/
def State.calendarSecond (s : State) : State :=
  if s.rtc.clken then
    if s.rtc.time.valid s.params then s.calendarStep (s.rtc.time.succ s.params) true
    else
      { s with draws := s.draws + 3 }.calendarStep
        (Capture.decodeCT ⟨Config.freeWord s.draws, Config.freeWord (s.draws + 1), Config.freeWord (s.draws + 2)⟩) true
  else s

/-- One step of another agent. While RUN is not Running only the calendar agent, the halting handler and reset act
(R218, R219, R221; DEDUCED, log entry 13), and a hung tick handler lets no other code run (R214; log entry 12). -/
def State.agentStep (e : EnvEvent) (s : State) : State :=
  match e with
  | .rtcStep t tick => s.calendarStep t tick
  | .rtcSecond => s.calendarSecond
  | .foreign op => if s.run = .running && s.tickHang.isNone then s.foreignOp op else s
  | .tick ack wd => if s.run = .running && s.tickHang.isNone then s.tickHandler ack wd else s
  | .fault frame => s.takeFault frame
  | .halt => s.halt
  | .reset u => s.hwReset u

/-- The steps of one slot, in order. -/
def State.agentSteps (sl : Slot) (s : State) : State := sl.foldl (fun t e => t.agentStep e) s

/-- The next slot of the other agents: the next of `env`, refilled from `envLoop`. -/
def State.nextSlot (s : State) : Slot :=
  match s.env with
  | sl :: _ => sl
  | [] => s.envLoop.headD []

/-- The next slot is taken from the queue. -/
def State.dropSlot (s : State) : State :=
  match s.env with
  | _ :: rest => { s with env := rest }
  | [] => { s with env := s.envLoop.tail }

/-- An external reset. -/
def EnvEvent.isReset : EnvEvent → Bool
  | .reset _ => true
  | .rtcStep _ _ | .rtcSecond | .foreign _ | .tick _ _ | .fault _ | .halt => false

/-- How far a command has come: it goes on with a value, it has been abandoned where it stands (by a fault R217, a reset
R242, or a tick handler that never lets it go on R214), or it has met a fault of the model. -/
inductive Run (α : Type) where
  | ok (a : α) (s : State)
  | cut (s : State)
  | stop (f : Fault)

/-- A command's next part, run where the part before it ended. -/
def Run.andThen {α β : Type} (r : Run α) (k : α → State → Run β) : Run β :=
  match r with
  | .ok a s => k a s
  | .cut s => .cut s
  | .stop f => .stop f

/-- The step's outcome when a command has come to its end. -/
def Run.outcome (r : Run Unit) : Host.Outcome State Fault Refusal :=
  match r with
  | .ok _ s => .next s
  | .cut s => .next s
  | .stop f => .fault f

/-- What may happen before a transaction of the command in flight (R80): the next slot of the other agents
(DESIGN CHOICE, log entry 6). The command
goes on unless a fault, a reset or an unacknowledged tick has come. -/
def pass (s : State) : Run Unit :=
  let t := s.dropSlot.agentSteps s.nextSlot
  if t.run = .running && t.tickHang.isNone && !s.nextSlot.any EnvEvent.isReset then .ok () t else .cut t

/-- `BusRead(r)` as the next transaction of the command in flight. -/
def txRead (r : RegId) (s : State) : Run Word :=
  (pass s).andThen fun _ t => .ok (t.busRead .block r).1 (t.busRead .block r).2

/-- `BusWrite(r, v)` as the next transaction of the command in flight. -/
def txWrite (r : RegId) (v : Word) (s : State) : Run Unit :=
  (pass s).andThen fun _ t => .ok () (t.busWrite .block r v)

/-- A command's writes, in exactly this order (R81). -/
def txWrites : List (RegId × Word) → State → Run Unit
  | [], s => .ok () s
  | (r, v) :: rest, s => (txWrite r v s).andThen fun _ t => txWrites rest t

/-- `MemRead(addr, 1)` as the next transaction of the command in flight. -/
def txMemRead (a : Nat) (s : State) : Run Byte :=
  (pass s).andThen fun _ t =>
    if a < 2 ^ 32 then .ok (Memory.read t.mem a) (t.log (.memRead a (Memory.read t.mem a)))
    else .stop (.noSuchAddress a)

/-- `MemWrite(addr, 1, b)` as the next transaction of the command in flight. -/
def txMemWrite (a : Nat) (b : Byte) (s : State) : Run Unit :=
  (pass s).andThen fun _ t =>
    if a < 2 ^ 32 then .ok () ({ t with mem := Memory.write t.mem a b }.log (.memWrite a b))
    else .stop (.noSuchAddress a)

/-- A command runs only while RUN is Running; otherwise its word is refused as illegal (R27, R108). -/
def whenRunning (s : State) (body : Host.Outcome State Fault Refusal) : Host.Outcome State Fault Refusal :=
  if s.run = .running then body else .next s.illegal

end Sys2Proof.Machine
end

