-- ==== Sys2Proof/Machine/Bodies.lean ====
section
/-! DEFINITION. The sequences that more than one command performs: the calendar write (spec/40_sequencer.md R128), the
clock-tree disable sequence (R126), one round of the tear-free read (spec/42_rtc_reader.md R171), startup validation
(spec/43_calendar.md R185), and the memory steps of BOOT (R130). -/

namespace Sys2Proof.Machine

open Sys2Proof

/-- The feed pair (R122). -/
def feedPair : List (RegId × Word) := [(.pllfeed, 0x000000AA#32), (.pllfeed, 0x00000055#32)]

/-- t2 to t12 of CLKDIS, from the word `w` that t1 read (R126). -/
def disableWrites (w : Word) : List (RegId × Word) :=
  (.pllcon, if w.getLsbD 24 then 1#32 else 0#32) :: feedPair
    ++ (.pllcon, 0#32) :: feedPair
    ++ (.clksrcsel, 0#32) :: (.pllcfg, 0#32) :: feedPair
    ++ [(.cclkcfg, 0#32)]

/-- The transactions of CLKDIS, t1 to t12 (R126). -/
def disableBody (s : State) : Run Unit :=
  (txRead .pllstat s).andThen fun w t => txWrites (disableWrites w) t

/-- t2 to t11 of RTCSET for the time `t`, from the word `c` that t1 read (R128). -/
def calendarWrites (c : Word) (t : RtcTime) : List (RegId × Word) :=
  [(.rtcccr, c &&& 0xFFFFFFFE#32),
   (.sec, t.sec.setWidth 32), (.min, t.min.setWidth 32), (.hour, t.hour.setWidth 32), (.dow, t.dow.setWidth 32),
   (.dom, t.dom.setWidth 32), (.month, t.month.setWidth 32), (.year, t.year.setWidth 32), (.doy, t.doy.setWidth 32),
   (.rtcccr, c ||| 1#32)]

/-- The transactions of RTCSET, t1 to t11, with the time in TS (R128). -/
def calendarBody (s : State) : Run Unit :=
  (txRead .rtcccr s).andThen fun c t => txWrites (calendarWrites c s.ts) t

/-- One full read: CT0, CT1, CT2 in that order (R170, R171). -/
def fullRead (s : State) : Run Capture :=
  (txRead .ct0 s).andThen fun c0 t =>
  (txRead .ct1 t).andThen fun c1 t =>
  (txRead .ct2 t).andThen fun c2 t => .ok { c0 := c0, c1 := c1, c2 := c2 } t

/-- One round of the tear-free read: two fresh full reads, and the words if all 96 bits agree (R171). -/
def readRound (s : State) : Run (Option Capture) :=
  (fullRead s).andThen fun a t =>
  (fullRead t).andThen fun b t => .ok (if a = b then some b else none) t

/-- The end of a tear-free read: `CS` and `TS` take the words of the last full read (R171). -/
def State.captured (c : Capture) (s : State) : State := { s with cs := c, ts := c.decodeCT }

/-- What RTCINIT does once its tear-free read has ended (R185), with the flag it reports. -/
def validateBody (s : State) : Run Flag :=
  if s.ts.valid s.params then .ok .valid s
  else (calendarBody { s with ts := epoch s.params }).andThen fun _ t => .ok .replaced t

/-- Step 3 of BOOT: `n` bytes are copied, ascending, each read and then written (R130). -/
def copyBytes : Nat → Nat → Nat → State → Run Unit
  | 0, _, _, s => .ok () s
  | n + 1, src, dst, s =>
    (txMemRead src s).andThen fun b t =>
    (txMemWrite dst b t).andThen fun _ t => copyBytes n (src + 1) (dst + 1) t

/-- Step 4 of BOOT: `n` bytes are zeroed, ascending (R130). -/
def zeroBytes : Nat → Nat → State → Run Unit
  | 0, _, s => .ok () s
  | n + 1, a, s => (txMemWrite a 0#8 s).andThen fun _ t => zeroBytes n (a + 1) t

/-- Steps 1 and 2 of BOOT: the stack pointers, MSP first, then the barrier (R130). -/
def State.setStacks (s : State) : State :=
  ({ s with msp := s.params.stackTop }.log (.setMsp s.params.stackTop))
    |> fun t => ({ t with psp := t.params.stackTop }.log (.setPsp t.params.stackTop))
    |> State.log .barrier

/-- Steps 1 to 4 of BOOT (R130). -/
def memoryBody (s : State) : Run Unit :=
  let P := s.params
  (copyBytes (P.sEdata.toNat - P.sData.toNat) P.sIdata.toNat P.sData.toNat s.setStacks).andThen fun _ t =>
  zeroBytes (P.sEbss.toNat - P.sEdata.toNat) P.sEdata.toNat t

/-- RTCREAD once its read has ended (R171). -/
def finishRtcread (s : State) : Run Unit :=
  .ok () (s.setFlags (.done :: flagIf (s.ts.valid s.params) .valid))

/-- RTCINIT once its read has ended (R185). -/
def finishRtcinit (s : State) : Run Unit :=
  (validateBody s).andThen fun f t => .ok () (t.setFlags [.done, f])

/-- BOOT once the read of its step 5a has ended: the rest of 5a, then 5b, then 5c (R130). -/
def finishBoot (s : State) : Run Unit :=
  (validateBody s).andThen fun f t =>
  (disableBody t).andThen fun _ t => .ok () ({ t with booted := true }.setFlags [.done, f])

/-- The rest of a command whose tear-free read has ended. -/
def finishRead (c : InFlight) (s : State) : Run Unit :=
  match c with
  | .rtcread => finishRtcread s
  | .rtcinit => finishRtcinit s
  | .boot => finishBoot s

/-- One round of the tear-free read of the command `c`, and the rest of `c` if it succeeds. If it fails, the command stays
in flight and the next step makes the next round (R171, R173; DESIGN CHOICE, log entry 7). -/
def readLoop (c : InFlight) (s : State) : Run Unit :=
  (readRound s).andThen fun r t =>
    match r with
    | some w => finishRead c (t.captured w)
    | none => .ok () { t with inflight := some c }

end Sys2Proof.Machine
end

