-- ==== Sys2Proof/Machine/CalendarCmds.lean ====
section
/-! DEFINITION. The calendar value and validity commands (spec/43_calendar.md R180 to R195): TSDEF, RTCVAL, RTCINIT and the eight
field setters. -/

namespace Sys2Proof.Machine

open Sys2Proof

/-- TSDEF (R183). -/
def execTsdef (s : State) : Host.Outcome State Fault Refusal :=
  whenRunning s <| .next ({ s with ts := epoch s.params }.setFlags [.done])

/-- RTCVAL (R184). -/
def execRtcval (s : State) : Host.Outcome State Fault Refusal :=
  whenRunning s <| .next (s.setFlags (.done :: flagIf (s.ts.valid s.params) .valid))

/-- RTCINIT (R185): the tear-free read, then startup validation. -/
def execRtcinit (s : State) : Host.Outcome State Fault Refusal :=
  whenRunning s <| Run.outcome <| readLoop .rtcinit s

/-- What every setter does with its verdict: TS takes the new value, or the value is refused and TS unchanged
(R187 to R195). -/
def setField (ok : Bool) (t : RtcTime) (s : State) : Host.Outcome State Fault Refusal :=
  whenRunning s <|
    if ok then .next ({ s with ts := t }.setFlags [.done]) else .next (s.setFlags [.done, .reject])

/-- SETSEC (R187). -/
def execSetsec (imm : BitVec 16) (s : State) : Host.Outcome State Fault Refusal :=
  setField (decide (imm.toNat ≤ 59)) { s.ts with sec := immTo 6 imm } s

/-- SETMIN (R188). -/
def execSetmin (imm : BitVec 16) (s : State) : Host.Outcome State Fault Refusal :=
  setField (decide (imm.toNat ≤ 59)) { s.ts with min := immTo 6 imm } s

/-- SETHOUR (R189). -/
def execSethour (imm : BitVec 16) (s : State) : Host.Outcome State Fault Refusal :=
  setField (decide (imm.toNat ≤ 23)) { s.ts with hour := immTo 5 imm } s

/-- SETDOW (R190). -/
def execSetdow (imm : BitVec 16) (s : State) : Host.Outcome State Fault Refusal :=
  setField (decide (imm.toNat ≤ 6)) { s.ts with dow := immTo 3 imm } s

/-- SETDOM (R191): against the current month and leap status; a month outside 1..12 refuses (I20). -/
def execSetdom (imm : BitVec 16) (s : State) : Host.Outcome State Fault Refusal :=
  setField (decide (1 ≤ imm.toNat) && fitsMonth s.params imm.toNat s.ts.month.toNat s.ts.year)
    { s.ts with dom := immTo 5 imm } s

/-- SETMON (R192): against the day in TS; a month outside 1..12 refuses. -/
def execSetmon (imm : BitVec 16) (s : State) : Host.Outcome State Fault Refusal :=
  setField (decide (1 ≤ imm.toNat ∧ imm.toNat ≤ 12) && fitsMonth s.params s.ts.dom.toNat imm.toNat s.ts.year)
    { s.ts with month := immTo 4 imm } s

/-- SETYEAR (R193): against the day and the day of year in TS. -/
def execSetyear (imm : BitVec 16) (s : State) : Host.Outcome State Fault Refusal :=
  setField
    (decide (1 ≤ s.ts.month.toNat ∧ s.ts.month.toNat ≤ 12)
      && fitsMonth s.params s.ts.dom.toNat s.ts.month.toNat imm
      && decide (s.ts.doy.toNat ≤ daysInYear s.params imm))
    { s.ts with year := imm } s

/-- SETDOY (R194). -/
def execSetdoy (imm : BitVec 16) (s : State) : Host.Outcome State Fault Refusal :=
  setField (decide (1 ≤ imm.toNat ∧ imm.toNat ≤ daysInYear s.params s.ts.year))
    { s.ts with doy := immTo 12 imm } s

end Sys2Proof.Machine
end

