-- ==== Sys2Proof/Machine/Pll.lean ====
section
/-! DEFINITION. The PLL arithmetic commands (spec/41_pll_arithmetic.md R150 to R158): PLLSRCH, PLLCHK, FREQRB. -/

namespace Sys2Proof.Machine

open Sys2Proof

/-- How far the search has come (R153): it has found the exact triple and ended, or it goes on with the last viable
triple found so far. -/
inductive Search where
  | exact (m n d : Nat)
  | more (last : Option (Nat × Nat × Nat))
deriving DecidableEq, Repr

/-- The innermost loop of R153 for an in-range pair (m, n) with PLL output `f`: the dividers `ds`, in order. -/
def searchDividers (P : Params) (des m n f : Nat) : List Nat → Option (Nat × Nat × Nat) → Search
  | [], last => .more last
  | d :: ds, last =>
    if cpuOk P (f / (d + 1)) then
      if f / (d + 1) = des then .exact m n d
      else searchDividers P des m n f ds (some (m, n, d))
    else searchDividers P des m n f ds last

/-- The middle loop of R153: the pre-dividers `ns`, in order. -/
def searchPredividers (P : Params) (des inp m : Nat) : List Nat → Option (Nat × Nat × Nat) → Search
  | [], last => .more last
  | n :: ns, last =>
    if inLock P (fcco m n inp) then
      match searchDividers P des m n (fcco m n inp) (List.range' 0 (dMax P + 1)) last with
      | .exact m n d => .exact m n d
      | .more last => searchPredividers P des inp m ns last
    else searchPredividers P des inp m ns last

/-- The outermost loop of R153: the multipliers `ms`, in order. -/
def searchMultipliers (P : Params) (des inp : Nat) : List Nat → Option (Nat × Nat × Nat) → Search
  | [], last => .more last
  | m :: ms, last =>
    match searchPredividers P des inp m (List.range' 0 (nMax P + 1)) last with
    | .exact m n d => .exact m n d
    | .more last => searchMultipliers P des inp ms last

/-- The search over the whole space, in lexicographic order of (m, n, d) (R152, R153). -/
def search (P : Params) (des inp : Nat) : Search := searchMultipliers P des inp (List.range' 0 (mMax P + 1)) none

/-- A triple found by the search goes to PR and its two frequencies to A2 and A3 (R153), saturated (DEDUCED, log
entry 15). -/
def State.foundTriple (m n d inp : Nat) (s : State) : State :=
  { s with pr := (PllTriple.ofNats m n d).fit s.params,
           x2 := saturate (fcco m n inp), x3 := saturate (fcpu m n d inp) }

/-- No triple is viable: PR, A2 and A3 are drawn (R153, I1; log entry 4). -/
def State.drawnTriple (s : State) : State :=
  { s with
    pr := (PllTriple.ofWord s.params (Config.freeWord s.draws))
    x2 := Config.freeWord (s.draws + 1), x3 := Config.freeWord (s.draws + 2), draws := s.draws + 3 }

/-- PLLSRCH (R153). -/
def execPllsrch (s : State) : Host.Outcome State Fault Refusal :=
  whenRunning s <|
    match search s.params s.x0.toNat s.x1.toNat with
    | .exact m n d => .next ((s.foundTriple m n d s.x1.toNat).setFlags [.done, .viable, .exact])
    | .more (some (m, n, d)) => .next ((s.foundTriple m n d s.x1.toNat).setFlags [.done, .viable])
    | .more none => .next (s.drawnTriple.setFlags [.done])

/-- PLLCHK (R155): the flags come from the exact frequencies, A2 and A3 saturate. -/
def execPllchk (s : State) : Host.Outcome State Fault Refusal :=
  let f := fcco s.pr.m.toNat s.pr.n.toNat s.x1.toNat
  let c := f / (s.pr.d.toNat + 1)
  whenRunning s <|
    .next ({ s with x2 := saturate f, x3 := saturate c }.setFlags
      (.done :: (flagIf (inLock s.params f) .inlock ++ flagIf (cpuOk s.params c) .cpuok
        ++ flagIf (inLock s.params f && cpuOk s.params c) .viable)))

/-- The frequency FREQRB reconstructs from the base frequency, the PLLSTAT word and, where the PLL is both enabled and
connected, the CCLKCFG word (R157). -/
def readbackHz (P : Params) (base : Nat) (stat : Word) (cc : Option Word) : Nat :=
  match cc with
  | some w => fcpu (lowField P.mBits stat) (midField P.nBits stat) (lowField P.dBits w) base
  | none => base

/-- The end of FREQRB (R157): A2 takes the saturated frequency, or a draw for the reserved selector value 3 (I2; log
entry 4). -/
def State.readbackDone (sel stat : Word) (cc : Option Word) (s : State) : State :=
  match srcHz s.params (sel.extractLsb' 0 2) with
  | some base => { s with x2 := saturate (readbackHz s.params base stat cc) }.setFlags [.done]
  | none => { s with x2 := Config.freeWord s.draws, draws := s.draws + 1 }.setFlags [.done, .rsvsrc]

/-- FREQRB (R157): CLKSRCSEL, then PLLSTAT, then CCLKCFG only when the PLL is both enabled and connected. -/
def execFreqrb (s : State) : Host.Outcome State Fault Refusal :=
  whenRunning s <| Run.outcome <|
    (txRead .clksrcsel s).andThen fun sel t =>
    (txRead .pllstat t).andThen fun stat t =>
      if stat.getLsbD 24 && stat.getLsbD 25 then
        (txRead .cclkcfg t).andThen fun cc t => .ok () (t.readbackDone sel stat (some cc))
      else .ok () (t.readbackDone sel stat none)

end Sys2Proof.Machine
end

