-- ==== Sys2Proof/Machine/RtcReader.lean ====
section
/-! DEFINITION. The tear-free RTC reader command (spec/42_rtc_reader.md R170 to R174): RTCREAD. -/

namespace Sys2Proof.Machine

open Sys2Proof

/-- RTCREAD (R171): the first round of the read; while rounds fail the command stays in flight. -/
def execRtcread (s : State) : Host.Outcome State Fault Refusal :=
  whenRunning s <| Run.outcome <| readLoop .rtcread s

end Sys2Proof.Machine
end

