-- ==== Sys2Proof/Machine/Sequencer.lean ====
section
/-! DEFINITION. The register-write sequencer commands (spec/40_sequencer.md R120 to R132): REGRD, REGWR, FEED, BARRIER, CLKDIS,
RTCSET, BOOT. -/

namespace Sys2Proof.Machine

open Sys2Proof

/-- REGRD (R120): one BusRead, its word in A0. -/
def execRegrd (reg : RegId) (s : State) : Host.Outcome State Fault Refusal :=
  whenRunning s <| Run.outcome <|
    (txRead reg s).andThen fun v t => .ok () ({ t with x0 := v }.setFlags [.done])

/-- REGWR (R121): one BusWrite of A0. -/
def execRegwr (reg : RegId) (s : State) : Host.Outcome State Fault Refusal :=
  whenRunning s <| Run.outcome <|
    (txWrite reg s.x0 s).andThen fun _ t => .ok () (t.setFlags [.done])

/-- FEED (R122): the feed pair. -/
def execFeed (s : State) : Host.Outcome State Fault Refusal :=
  whenRunning s <| Run.outcome <|
    (txWrites feedPair s).andThen fun _ t => .ok () (t.setFlags [.done])

/-- BARRIER (R124): one event, no bus transaction, no state change. -/
def execBarrier (s : State) : Host.Outcome State Fault Refusal :=
  whenRunning s <| .next ((s.log .barrier).setFlags [.done])

/-- CLKDIS (R126): the disable sequence. -/
def execClkdis (s : State) : Host.Outcome State Fault Refusal :=
  whenRunning s <| Run.outcome <|
    (disableBody s).andThen fun _ t => .ok () (t.setFlags [.done])

/-- RTCSET (R128): an invalid TS is refused and nothing written; a valid one is written to the calendar. -/
def execRtcset (s : State) : Host.Outcome State Fault Refusal :=
  whenRunning s <|
    if s.ts.valid s.params then
      Run.outcome ((calendarBody s).andThen fun _ t => .ok () (t.setFlags [.done, .valid]))
    else .next (s.setFlags [.done, .reject])

/-- BOOT (R130): steps 1 to 4, then the calendar init and the clock-tree disable sequence. A second BOOT is illegal; a
command before the first is accepted, R245's default (log entry 18). -/
def execBoot (s : State) : Host.Outcome State Fault Refusal :=
  whenRunning s <|
    if s.booted then .next s.illegal
    else Run.outcome ((memoryBody s).andThen fun _ t => readLoop .boot t)

end Sys2Proof.Machine
end

