-- ==== Sys2Proof/Machine/Dispatch.lean ====
section
/-! DEFINITION. One arm per command: what a command does once the host has written its word (spec/30_encoding.md R100, R106). -/

namespace Sys2Proof.Machine

open Sys2Proof

def exec (i : Instr) (s : State) : Host.Outcome State Fault Refusal :=
  match i with
  | .regrd reg => Sys2Proof.Machine.execRegrd reg s
  | .regwr reg => Sys2Proof.Machine.execRegwr reg s
  | .feed => Sys2Proof.Machine.execFeed s
  | .barrier => Sys2Proof.Machine.execBarrier s
  | .clkdis => Sys2Proof.Machine.execClkdis s
  | .rtcset => Sys2Proof.Machine.execRtcset s
  | .boot => Sys2Proof.Machine.execBoot s
  | .pllsrch => Sys2Proof.Machine.execPllsrch s
  | .pllchk => Sys2Proof.Machine.execPllchk s
  | .freqrb => Sys2Proof.Machine.execFreqrb s
  | .rtcread => Sys2Proof.Machine.execRtcread s
  | .tsdef => Sys2Proof.Machine.execTsdef s
  | .rtcval => Sys2Proof.Machine.execRtcval s
  | .rtcinit => Sys2Proof.Machine.execRtcinit s
  | .setsec imm => Sys2Proof.Machine.execSetsec imm s
  | .setmin imm => Sys2Proof.Machine.execSetmin imm s
  | .sethour imm => Sys2Proof.Machine.execSethour imm s
  | .setdow imm => Sys2Proof.Machine.execSetdow imm s
  | .setdom imm => Sys2Proof.Machine.execSetdom imm s
  | .setmon imm => Sys2Proof.Machine.execSetmon imm s
  | .setyear imm => Sys2Proof.Machine.execSetyear imm s
  | .setdoy imm => Sys2Proof.Machine.execSetdoy imm s

end Sys2Proof.Machine
end

