-- ==== Sys2Proof/Machine/Port.lean ====
section
/-! DEFINITION. The host port (spec/30_encoding.md R100, R101, R110) and what one step of the whole machine does. -/

namespace Sys2Proof.Machine

open Sys2Proof

/-- A command word is written to CMD: the command it selects runs, an illegal word is refused (R100, R108). -/
def issue (w : Word) (s : State) : Host.Outcome State Fault Refusal :=
  match decode w with
  | .ok i => exec i s
  | .error _ => .next s.illegal

/-- A host write of the host port (R101): CMD starts a command, the operand registers and PR take the word, and a
read-only or unassigned offset changes nothing. -/
def portWrite (off v : Word) (s : State) : Host.Outcome State Fault Refusal :=
  match off with
  | 0x00#32 => issue v s
  | 0x08#32 => .next { s with x0 := v }
  | 0x0C#32 => .next { s with x1 := v }
  | 0x10#32 => .next { s with x2 := v }
  | 0x14#32 => .next { s with x3 := v }
  | 0x18#32 => .next { s with pr := PllTriple.ofWord s.params v }
  | _ => .next s

/-- The word at a readable offset of the host port; CMD reads as zero (R101). -/
def portView (off : Word) (s : State) : Option Word :=
  match off with
  | 0x00#32 => some 0#32
  | 0x04#32 => some s.status
  | 0x08#32 => some s.x0
  | 0x0C#32 => some s.x1
  | 0x10#32 => some s.x2
  | 0x14#32 => some s.x3
  | 0x18#32 => some s.pr.word
  | 0x1C#32 => some s.ts.ct0
  | 0x20#32 => some s.ts.ct1
  | 0x24#32 => some s.ts.ct2
  | 0x28#32 => some s.cs.c0
  | 0x2C#32 => some s.cs.c1
  | 0x30#32 => some s.cs.c2
  | _ => none

/-- A host read of the host port: the host gets the word and no register changes; what it gets at an offset R101 does not
list is not stated and drawn (log entries 4 and 19). -/
def portRead (off : Word) (s : State) : State :=
  match portView off s with
  | some v => { s with rdata := v }
  | none => { s with rdata := Config.freeWord s.draws, draws := s.draws + 1 }

/-- One access of the host. -/
def hostAccess (a : HostAct) (s : State) : Host.Outcome State Fault Refusal :=
  match a with
  | .write off v => portWrite off v s
  | .read off => .next (portRead off s)

/-- Between two commands: the other agents' slot, then the host's next access; nothing if the host has none. A tick handler that never
clears `TICKIF` keeps the host from running, and runs again instead (R80, R214). -/
def betweenCommands (s : State) : Host.Outcome State Fault Refusal :=
  let t := s.dropSlot.agentSteps s.nextSlot
  match t.tickHang with
  | some wd => .next (t.tickAgain wd)
  | none =>
    match t.host with
    | [] => .next t
    | a :: rest => hostAccess a { t with host := rest }

/-- One step: a command in flight makes its next round, and otherwise the host makes its next access (R100, R173). -/
def cycle (s : State) : Host.Outcome State Fault Refusal :=
  match s.inflight with
  | some c => (readLoop c { s with inflight := none }).outcome
  | none => betweenCommands s

/-- The state in which the very next host access writes the word `w` to CMD: no command is in flight, no hung handler keeps
the host away, no other agent acts first, and the write stands first among the host's accesses (log entry 9). -/
def State.withCommand (s : State) (w : Word) : State :=
  { s with inflight := none, tickHang := none, env := [] :: s.env, host := .write 0x00#32 w :: s.host }

/-- Pseudo-instructions (R110): each is one or more host-port accesses. -/
def ldaA0 (v : Word) : HostAct := .write 0x08#32 v

/-- `LDA A1, v` (R110). -/
def ldaA1 (v : Word) : HostAct := .write 0x0C#32 v

/-- `LDA A2, v` (R110). -/
def ldaA2 (v : Word) : HostAct := .write 0x10#32 v

/-- `LDA A3, v` (R110). -/
def ldaA3 (v : Word) : HostAct := .write 0x14#32 v

/-- `LDPR m, n, d` (R110). -/
def ldpr (t : PllTriple) : HostAct := .write 0x18#32 t.word

/-- `RDA A0`, `RDA A1`, `RDA A2`, `RDA A3` (R110). -/
def rdaAll : List HostAct := [.read 0x08#32, .read 0x0C#32, .read 0x10#32, .read 0x14#32]

/-- `RDPR` (R110). -/
def rdpr : HostAct := .read 0x18#32

/-- `RDTS` (R110). -/
def rdts : List HostAct := [.read 0x1C#32, .read 0x20#32, .read 0x24#32]

/-- `RDCS` (R110). -/
def rdcs : List HostAct := [.read 0x28#32, .read 0x2C#32, .read 0x30#32]

/-- `RDST` (R110). -/
def rdst : HostAct := .read 0x04#32

/-- The host writes the word of a command to CMD (R100). -/
def command (i : Instr) : HostAct := .write 0x00#32 (encode i)

end Sys2Proof.Machine
end

