-- ==== Sys2Proof/Safety.lean ====
section
/-! DEFINITION. The words claims use: the named premises of spec/92_eei_decisions.md section 5 and the invariant that every step
keeps. -/

namespace Sys2Proof.Machine

open Sys2Proof

/-- A command can run: RUN is Running, none is in flight, and no hung tick handler keeps the processor (R100, R214). -/
abbrev State.ready (s : State) : Prop := s.run = .running ∧ s.inflight = none ∧ s.tickHang = none

/-- No other agent takes a step, ever. -/
abbrev State.quiet (s : State) : Prop := s.env = [] ∧ s.envLoop = []

/-- `FeedQuiet`: nothing is pending in PLLCON or PLLCFG. -/
abbrev State.feedQuiet (s : State) : Prop := s.clk.pllconPend = none ∧ s.clk.pllcfgPend = none

/-- A step of the calendar agent (R50). -/
def EnvEvent.isCalendar : EnvEvent → Bool
  | .rtcStep _ _ | .rtcSecond => true
  | .foreign _ | .tick _ _ | .fault _ | .halt | .reset _ => false

/-- The next `k` slots of the other agents. -/
def State.slotsAhead : Nat → State → List Slot
  | 0, _ => []
  | k + 1, s => s.nextSlot :: State.slotsAhead k s.dropSlot

/-- `NoForeign` for a command of at most `k` transactions: before each of them only the calendar agent steps (R82). No
foreign master acts, and neither a fault nor a reset ends the command. The slot before the first transaction is included
(log entry 21). -/
abbrev State.noForeign (k : Nat) (s : State) : Prop :=
  ∀ sl ∈ s.slotsAhead k, ∀ e ∈ sl, EnvEvent.isCalendar e = true

/-- No external reset is among the coming steps of the other agents. -/
abbrev State.noReset (s : State) : Prop :=
  (∀ sl ∈ s.env, ∀ e ∈ sl, EnvEvent.isReset e = false) ∧ (∀ sl ∈ s.envLoop, ∀ e ∈ sl, EnvEvent.isReset e = false)

/-- Every value STATUS can hold (R26, R211, R215): reset's zero, ILLEGAL alone, and DONE with the flags of one command. -/
def statusWords : List Word :=
  [0x000#32, 0x080#32, 0x100#32, 0x102#32, 0x103#32, 0x104#32, 0x108#32, 0x10E#32, 0x110#32, 0x120#32, 0x140#32, 0x300#32]

/-- Running, Faulted, Halted in the order in which a run passes through them (R216). -/
def RunState.rank : RunState → Nat
  | .running => 0
  | .faulted => 1
  | .halted => 2

/-- The entries of the history that the block made. -/
def BusEvent.byBlock : BusEvent → Bool
  | .read who _ _ => who == .block
  | .write who _ _ => who == .block
  | .memRead _ _ | .memWrite _ _ | .barrier | .setMsp _ | .setPsp _ => true

/-- What writes of the block, made in this order, add to the history (newest first). -/
def writeEvents (ws : List (RegId × Word)) : List BusEvent := (ws.map fun w => .write .block w.1 w.2).reverse

/-- What a full read of the block that returned `c` adds to the history (newest first). -/
def fullReadEvents (c : Capture) : List BusEvent :=
  [.read .block .ct2 c.c2, .read .block .ct1 c.c1, .read .block .ct0 c.c0]

/-- The transaction an entry of the history records, without the word a read returned. -/
def BusEvent.request : BusEvent → Option (Master × BusOp)
  | .read who r _ => some (who, .read r)
  | .write who r v => some (who, .write r v)
  | .memRead _ _ | .memWrite _ _ | .barrier | .setMsp _ | .setPsp _ => none

/-- The transactions of the tick handler's keep-alive action, newest first, as the history records them (R214). -/
def WatchdogFeed.requests (wd : WatchdogFeed) : List (Option (Master × BusOp)) :=
  (wd.ops.map fun op => some (.foreign, op)).reverse

/-- The byte that step 3 of BOOT moves from `S_IDATA + i` to `S_DATA + i`. The copy ascends byte by byte, so where the image
starts below the runtime region and reaches into it, the bytes copied first come round again (R77, R130 (c)). -/
def imageByte (P : Params) (m : Memory) (i : Nat) : Byte :=
  Memory.read m (P.sIdata.toNat + if P.sIdata.toNat < P.sData.toNat then i % (P.sData.toNat - P.sIdata.toNat) else i)

/-- What steps 1 to 4 of BOOT add to the history (newest first): MSP, PSP, the barrier, each byte of the image read and then
written, ascending, and each byte of BSS zeroed, ascending (R130, R131). -/
def bootMemoryEvents (P : Params) (m : Memory) : List BusEvent :=
  let copy : List BusEvent := (List.range (P.sEdata.toNat - P.sData.toNat)).flatMap fun i =>
    [.memRead (P.sIdata.toNat + i) (imageByte P m i), .memWrite (P.sData.toNat + i) (imageByte P m i)]
  let zero : List BusEvent := (List.range (P.sEbss.toNat - P.sEdata.toNat)).map fun j => .memWrite (P.sEdata.toNat + j) 0#8
  zero.reverse ++ copy.reverse ++ [.barrier, .setPsp P.stackTop, .setMsp P.stackTop]

/-- What the disable sequence adds to the history (newest first) when t1 reads `w` (R126). -/
def disableEvents (w : Word) : List BusEvent := writeEvents (disableWrites w) ++ [.read .block .pllstat w]

/-- What the calendar write adds to the history (newest first) when t1 reads `c` and the time is `t` (R128). -/
def calendarEvents (c : Word) (t : RtcTime) : List BusEvent :=
  writeEvents (calendarWrites c t) ++ [.read .block .rtcccr c]

/-- The state at the next transaction: the next slot of the other agents is taken. -/
def State.afterSlot (s : State) : State := s.dropSlot.agentSteps s.nextSlot

/-- The words of the two full reads of a round of the tear-free read begun now, when only the calendar agent steps: each
word shows the calendar at its own read (R171, R48). -/
def State.roundAhead (s : State) : Capture × Capture :=
  let s0 := s.afterSlot
  let s1 := s0.afterSlot
  let s2 := s1.afterSlot
  let s3 := s2.afterSlot
  let s4 := s3.afterSlot
  let s5 := s4.afterSlot
  (⟨s0.rtc.time.ct0, s1.rtc.time.ct1, s2.rtc.time.ct2⟩, ⟨s3.rtc.time.ct0, s4.rtc.time.ct1, s5.rtc.time.ct2⟩)

/-- The bit widths of the unprotected read/write registers whose reads return what was written (R33, R45 to R49). -/
def unprotectedWidth (P : Params) : RegId → Option Nat
  | .cclkcfg => some P.dBits
  | .clksrcsel => some 2
  | .rtcccr => some 32
  | .sec | .min => some 6
  | .hour | .dom => some 5
  | .dow => some 3
  | .month => some 4
  | .year => some 16
  | .doy => some 12
  | .pllcon | .pllcfg | .pllstat | .pllfeed | .ct0 | .ct1 | .ct2 | .rtcilr | .other => none

/-- The search space of R152: every value of the three fields, which have M_BITS, N_BITS and D_BITS bits (R6). -/
abbrev inSpace (P : Params) (m n d : Nat) : Prop := m < 2 ^ P.mBits ∧ n < 2 ^ P.nBits ∧ d < 2 ^ P.dBits

/-- The order of R152 on triples. -/
abbrev lexLe (m n d m' n' d' : Nat) : Prop := m < m' ∨ (m = m' ∧ (n < n' ∨ (n = n' ∧ d ≤ d')))

/-- The words CT0 shows at the start and after each of the steps `es` of the calendar agent. -/
def ct0Trace : List EnvEvent → State → List Word
  | [], s => [s.rtc.time.ct0]
  | e :: es, s => s.rtc.time.ct0 :: ct0Trace es (s.agentStep e)

/-- What holds of the state at every moment. -/
structure State.Inv (s : State) : Prop where
  /-- The memory is in canonical form. -/
  memory : Memory.wf s.mem = true
  /-- PR's fields are within M_BITS, N_BITS, D_BITS (R22). -/
  triple : s.pr.fit s.params = s.pr
  /-- PLLCFG's live and pending fields are within M_BITS, N_BITS (R36). -/
  config : s.clk.pllcfgLive.fit s.params = s.clk.pllcfgLive
  pending : ∀ c, s.clk.pllcfgPend = some c → c.fit s.params = c
  /-- CCLKCFG is within D_BITS (R45). -/
  divider : keepLow s.params.dBits s.clk.cclkcfg = s.clk.cclkcfg
  /-- STATUS is one of its words (R26). -/
  status : s.status ∈ statusWords
  /-- A captured frame belongs to the Faulted state (R217, R224): the halt and a reset discard it, which is the model's choice
  (log entries 11 and 22). -/
  frame : s.frame.isSome = true → s.run = .faulted
  /-- A processor hung in its tick handler is running, with `TICKIF` set and the interrupt enabled (R214; how it hangs and what
  ends it is the model's choice, log entry 12). -/
  hang : s.tickHang.isSome = true → s.run = .running ∧ s.rtc.tickif = true ∧ s.params.tickEnabled = true
  /-- A command is in flight between two steps only while RUN is Running and nothing hangs (R27; that one can be is the model's
  choice, log entry 7). -/
  flight : s.inflight.isSome = true → s.run = .running ∧ s.tickHang = none

end Sys2Proof.Machine
end

