-- ==== Sys2Proof/Certificates/Slice0/Obligations.lean ====
section
/-! DEFINITION. The statements for the provers, each about the machine and none about a program. -/

open Sys2Proof Sys2Proof.Machine

/-! ### Encoding -/

/-- R103, R106, R107: decoding a command's word gives the command back, with every operand at every value. -/
def Obligations.DecodeOfEncodeIsTheCommand : Prop :=
  ∀ i : Instr, decode (encode i) = .ok i

/-- R106: a word selects a command exactly when `(cmd AND mask) = match` and its operand fields are the command's; for
format R that `reg` is assigned is that some register has it as its code. -/
def Obligations.WordSelectsCommandByMaskAndMatch : Prop :=
  ∀ (w : Word) (i : Instr),
    decode w = .ok i ↔ (w &&& i.mask = i.matchWord ∧ regOf w = i.regField ∧ immOf w = i.immField)

/-- R108: an illegal word (an opcode that is none of the 22, a must-be-zero field that is not zero, a format R word whose
`reg` is not assigned), any word while RUN is not Running, and BOOT while BOOTED = 1 change nothing but STATUS, which
becomes exactly ILLEGAL. -/
def Obligations.RefusedWordSetsOnlyIllegal : Prop :=
  ∀ (w : Word) (s : State),
    let formatZ := [0x03#8, 0x04#8, 0x05#8, 0x06#8, 0x07#8, 0x10#8, 0x11#8, 0x12#8, 0x20#8, 0x30#8, 0x31#8, 0x32#8]
    let formatR := [0x01#8, 0x02#8]
    let formatI := [0x38#8, 0x39#8, 0x3A#8, 0x3B#8, 0x3C#8, 0x3D#8, 0x3E#8, 0x3F#8]
    (opcodeOf w ∉ formatZ ++ formatR ++ formatI ∨
      (opcodeOf w ∈ formatZ ∧ (regOf w ≠ 0#8 ∨ immOf w ≠ 0#16)) ∨
      (opcodeOf w ∈ formatR ∧ (immOf w ≠ 0#16 ∨ ∀ r : RegId, r.code ≠ regOf w)) ∨
      (opcodeOf w ∈ formatI ∧ regOf w ≠ 0#8) ∨
      s.run ≠ .running ∨ (w = 0x07000000#32 ∧ s.booted = true)) →
      issue w s = .next { s with status := 0x080#32 }

/-- R109: the example words of the assembler syntax decode to the commands they are written for. -/
def Obligations.ExampleWordsDecode : Prop :=
  decode 0x05000000#32 = .ok .clkdis ∧ decode 0x02000000#32 = .ok (.regwr .pllcon) ∧
  decode 0x01020000#32 = .ok (.regrd .pllstat) ∧ decode 0x3C00001D#32 = .ok (.setdom 29#16) ∧
  decode 0x3E0007B2#32 = .ok (.setyear 1970#16)

/-- R100: a step whose host access writes a command's word to CMD is that command, run where the other agents' slot has left
the machine; `withFetchWord` places a word so that the very next step runs it. -/
def Obligations.StepRunsTheCommandWritten : Prop :=
  ∀ (s : State) (w : Word) (i : Instr), decode w = .ok i →
    step (s.withFetchWord 32 w.toNat) = exec i { s with inflight := none, tickHang := none } ∧
    (∀ rest, s.inflight = none → s.host = .write 0x00#32 w :: rest →
      (s.dropSlot.agentSteps s.nextSlot).tickHang = none →
      step s = exec i { s.dropSlot.agentSteps s.nextSlot with host := rest })

/-! ### Outcomes and the run state -/

/-- R26: no flag is sticky across commands and no command reads a flag. -/
def Obligations.NoCommandReadsAFlag : Prop :=
  ∀ (i : Instr) (s : State) (w : Word), s.ready → s.quiet → exec i { s with status := w } = exec i s

/-- R210: no command faults; and one that nothing disturbs ends with DONE, or is refused with ILLEGAL, and leaves nothing in
flight. -/
def Obligations.EveryCommandEndsInANextState : Prop :=
  ∀ (i : Instr) (s : State), s.params.wellFormed →
    ∃ t, exec i s = .next t ∧
      (s.ready → s.quiet → t.inflight = none ∧ t.run = .running ∧ (t.status.getLsbD 8 = true ∨ t.status = 0x080#32))

/-- R217, R218, R221: a fault takes a running machine to Faulted with its frame and nothing in flight, the handler's halt
takes it to Halted, and neither does anything in another state. That a fault also ends a hung tick handler and that the halt
is where the frame is discarded is the model's choice (log entries 12 and 11). -/
def Obligations.FaultAndHaltMoveTheRunState : Prop :=
  ∀ (s : State) (f : Option Frame),
    (s.run = .running →
      s.agentStep (.fault f) = { s with run := .faulted, frame := f, inflight := none, tickHang := none }) ∧
    (s.run ≠ .running → s.agentStep (.fault f) = s) ∧
    (s.run = .faulted → s.agentStep .halt = { s with run := .halted, frame := none }) ∧
    (s.run ≠ .faulted → s.agentStep .halt = s)

/-- R217: a fault that arrives before transaction `k + 1` of CLKDIS abandons the command there: `k` transactions have
happened, STATUS and the registers of the block keep their values, and RUN is Faulted. -/
def Obligations.FaultAbandonsTheDisableSequence : Prop :=
  ∀ (s : State) (f : Option Frame) (k : Nat) (rest : List Slot), s.ready → s.feedQuiet → k ≤ 11 →
    s.env = List.replicate k [] ++ [.fault f] :: rest →
    ∃ t, exec .clkdis s = .next t ∧ t.run = .faulted ∧ t.frame = f ∧ t.status = s.status ∧
      t.hist.length = s.hist.length + k ∧ t.inflight = none ∧ t.rtc = s.rtc ∧ t.mem = s.mem ∧
      t.x0 = s.x0 ∧ t.x1 = s.x1 ∧ t.x2 = s.x2 ∧ t.x3 = s.x3 ∧ t.pr = s.pr ∧ t.ts = s.ts ∧ t.cs = s.cs

/-- R216: without a reset the run state only moves forward, from Running to Faulted to Halted. -/
def Obligations.RunStateOnlyMovesForward : Prop :=
  ∀ s t : State, s.noReset → step s = .next t → s.run.rank ≤ t.run.rank

/-- R218: once RUN has left Running nothing but the calendar agent acts until a reset: no transaction happens, and the clock
registers, `CLKEN`, `CCRX`, memory, the stack pointers, TS, CS and BOOTED stay as they are. That foreign masters rest too
is the model's reading (log entry 13). -/
def Obligations.NothingRunsAfterAFault : Prop :=
  ∀ s t : State, s.run ≠ .running → s.noReset → step s = .next t →
    t.run ≠ .running ∧ t.hist = s.hist ∧ t.clk = s.clk ∧ t.rtc.clken = s.rtc.clken ∧ t.rtc.ccrx = s.rtc.ccrx ∧
    t.mem = s.mem ∧ t.msp = s.msp ∧ t.psp = s.psp ∧ t.ts = s.ts ∧ t.cs = s.cs ∧ t.booted = s.booted

/-- R53, R240: reset zeroes the block's own registers and STATUS, sets RUN to Running and BOOTED to 0, empties the feed
machinery, draws what it leaves unspecified, and keeps the calendar as long as the battery holds. That the rest of memory is kept and
that a captured frame and a hung tick handler are gone is the model's reading (log entries 17, 22 and 12). -/
def Obligations.ResetLeavesTheStateOfR53 : Prop :=
  ∀ (s : State) (u : ResetDraws), s.params.wellFormed → Memory.wf s.mem = true →
    let t := s.agentStep (.reset u)
    (t.x0 = 0#32 ∧ t.x1 = 0#32 ∧ t.x2 = 0#32 ∧ t.x3 = 0#32 ∧ t.pr = ⟨0#16, 0#8, 0#8⟩ ∧ t.ts = RtcTime.zero ∧
      t.cs = ⟨0#32, 0#32, 0#32⟩ ∧ t.status = 0#32) ∧
    (t.run = .running ∧ t.booted = false ∧ t.inflight = none ∧ t.frame = none ∧ t.tickHang = none) ∧
    (t.clk.pllconPend = none ∧ t.clk.pllcfgPend = none ∧ t.clk.feed = .idle ∧ t.clk.refused = false) ∧
    (t.msp = u.msp ∧ t.psp = u.psp ∧ t.clk.pllconLive = u.pllcon ∧ t.clk.pllcfgLive = u.pllcfg.fit s.params ∧
      t.clk.cclkcfg = keepLow s.params.dBits u.cclkcfg ∧ t.clk.clksrcsel = u.clksrcsel ∧ t.rtc.tickif = u.tickif) ∧
    (u.battery = none → t.rtc.time = s.rtc.time ∧ t.rtc.clken = s.rtc.clken ∧ t.rtc.ccrx = s.rtc.ccrx) ∧
    (∀ time en x, u.battery = some (time, en, x) → t.rtc.time = time ∧ t.rtc.clken = en ∧ t.rtc.ccrx = x) ∧
    (∀ a, s.params.sData.toNat ≤ a → a < s.params.sEbss.toNat →
      Memory.read t.mem a = u.ram.getD (a - s.params.sData.toNat) 0#8) ∧
    (∀ a, a < s.params.sData.toNat ∨ s.params.sEbss.toNat ≤ a → Memory.read t.mem a = Memory.read s.mem a)

/-! ### Bus transactions and the feed machinery -/

/-- R48: the words that reads of CT0, CT1 and CT2 return, and that DecodeCT is their inverse. -/
def Obligations.ConsolidatedWordsAndTheirInverse : Prop :=
  ∀ (s : State) (who : Master),
    let t := s.rtc.time
    let c0 := (s.busRead who .ct0).1
    let c1 := (s.busRead who .ct1).1
    let c2 := (s.busRead who .ct2).1
    c0.toNat = t.sec.toNat + 2 ^ 8 * t.min.toNat + 2 ^ 16 * t.hour.toNat + 2 ^ 24 * t.dow.toNat ∧
    c1.toNat = t.dom.toNat + 2 ^ 8 * t.month.toNat + 2 ^ 16 * t.year.toNat ∧
    c2.toNat = t.doy.toNat ∧ Capture.decodeCT ⟨c0, c1, c2⟩ = t

/-- R37, R259: a read of PLLSTAT returns the live fields, whatever is pending; and what a read of each other register with a
readable word returns (R35, R36, R45 to R47, R49, R51; CT0 to CT2 are the statement before). A read is a transaction and
changes no register (R52): only the feed machinery, the history and, for what is drawn, the draw index. -/
def Obligations.ReadsReturnTheLiveRegisters : Prop :=
  ∀ (s : State) (who : Master),
    let word := fun r => (s.busRead who r).1.toNat
    word .pllstat = s.clk.pllcfgLive.m.toNat + 2 ^ 16 * s.clk.pllcfgLive.n.toNat + 2 ^ 24 * s.clk.pllconLive.toNat ∧
    word .pllcon = s.clk.pllconLive.toNat ∧
    word .pllcfg = s.clk.pllcfgLive.m.toNat + 2 ^ 16 * s.clk.pllcfgLive.n.toNat ∧
    word .cclkcfg = s.clk.cclkcfg.toNat ∧ word .clksrcsel = s.clk.clksrcsel.toNat ∧
    word .rtcccr = s.rtc.clken.toNat + 2 * s.rtc.ccrx.toNat ∧ word .rtcilr = s.rtc.tickif.toNat ∧
    (word .sec = s.rtc.time.sec.toNat ∧ word .min = s.rtc.time.min.toNat ∧ word .hour = s.rtc.time.hour.toNat ∧
      word .dow = s.rtc.time.dow.toNat ∧ word .dom = s.rtc.time.dom.toNat ∧ word .month = s.rtc.time.month.toNat ∧
      word .year = s.rtc.time.year.toNat ∧ word .doy = s.rtc.time.doy.toNat) ∧
    (∀ r, r ≠ .pllfeed → r ≠ .other → readView s.clk s.rtc r = some (s.busRead who r).1) ∧
    (∀ r,
      let t := (s.busRead who r).2
      t = { s with
        clk := { s.clk with pllconPend := t.clk.pllconPend, pllcfgPend := t.clk.pllcfgPend, feed := .idle,
                            refused := t.clk.refused }
        hist := .read who r (s.busRead who r).1 :: s.hist
        draws := t.draws })

/-- R32, R33, R45 to R49, R51: what a write to each register but the two protected ones and PLLFEED does, in every state. A
write to OTHER changes nothing but the feed machinery, the history and the draw index, and voids an open pair (R43, R44); a
write to a read-only register does the same; a write to any other of them also stores its field, masked to its layout, at
once, or, for RTCILR, clears TICKIF exactly if bit 0 is 1 (PRESUMED by the spec itself, log entry 20). No other register
changes. That with feed Idle and something pending each pending half is then kept or empty, and what is drawn, is the model's
choice (log entry 5). -/
def Obligations.UnprotectedRegisterHoldsTheValueWritten : Prop :=
  ∀ (s : State) (who : Master) (v : Word),
    let u := s.busWrite who .other v
    let wrote := fun (r : RegId) (t : State) => s.busWrite who r v = { t with hist := .write who r v :: s.hist }
    (u = { s with
        clk := { s.clk with pllconPend := u.clk.pllconPend, pllcfgPend := u.clk.pllcfgPend, feed := .idle,
                            refused := s.clk.refused || (decide (s.clk.feed = .idle) && s.clk.anyPend) }
        hist := .write who .other v :: s.hist
        draws := u.draws }) ∧
    (u.clk.pllconPend = none ∨ u.clk.pllconPend = s.clk.pllconPend) ∧
    (u.clk.pllcfgPend = none ∨ u.clk.pllcfgPend = s.clk.pllcfgPend) ∧
    (s.clk.feed = .armed ∨ s.feedQuiet →
      u.clk.pllconPend = none ∧ u.clk.pllcfgPend = none ∧ u.draws = s.draws) ∧
    (wrote .pllstat u ∧ wrote .ct0 u ∧ wrote .ct1 u ∧ wrote .ct2 u) ∧
    wrote .cclkcfg { u with clk := { u.clk with cclkcfg := BitVec.ofNat 8 (v.toNat % 2 ^ s.params.dBits) } } ∧
    wrote .clksrcsel { u with clk := { u.clk with clksrcsel := BitVec.ofNat 2 v.toNat } } ∧
    wrote .rtcccr
      { u with rtc := { s.rtc with clken := decide (v.toNat % 2 = 1), ccrx := BitVec.ofNat 31 (v.toNat / 2) } } ∧
    wrote .rtcilr { u with rtc := { s.rtc with tickif := s.rtc.tickif && decide (v.toNat % 2 = 0) } } ∧
    (let store := fun (r : RegId) (t : RtcTime) => wrote r { u with rtc := { s.rtc with time := t } }
     store .sec { s.rtc.time with sec := BitVec.ofNat 6 v.toNat } ∧
     store .min { s.rtc.time with min := BitVec.ofNat 6 v.toNat } ∧
     store .hour { s.rtc.time with hour := BitVec.ofNat 5 v.toNat } ∧
     store .dow { s.rtc.time with dow := BitVec.ofNat 3 v.toNat } ∧
     store .dom { s.rtc.time with dom := BitVec.ofNat 5 v.toNat } ∧
     store .month { s.rtc.time with month := BitVec.ofNat 4 v.toNat } ∧
     store .year { s.rtc.time with year := BitVec.ofNat 16 v.toNat } ∧
     store .doy { s.rtc.time with doy := BitVec.ofNat 12 v.toNat }) ∧
    (∀ (r : RegId) (k : Nat), s.params.wellFormed → unprotectedWidth s.params r = some k →
      readView (s.busWrite who r v).clk (s.busWrite who r v).rtc r = some (BitVec.ofNat 32 (v.toNat % 2 ^ k)))

/-- R39 (a), (b), R35, R36: a write to PLLCON or PLLCFG with nothing pending, or into an open pair, only becomes pending, as the
fields of the written word: bits 1 to 0 for PLLCON; bits M_BITS - 1 to 0 and 16 + N_BITS - 1 to 16 for PLLCFG. -/
def Obligations.ProtectedWriteOnlyPends : Prop :=
  ∀ (s : State) (who : Master) (v : Word), s.clk.feed = .armed ∨ s.feedQuiet →
    s.busWrite who .pllcon v =
      { s with clk := { s.clk with pllconPend := some (v.extractLsb' 0 2), pllcfgPend := none, feed := .idle },
               hist := .write who .pllcon v :: s.hist } ∧
    s.busWrite who .pllcfg v =
      { s with clk := { s.clk with pllconPend := none,
                                   pllcfgPend := some ⟨BitVec.ofNat 16 (v.toNat % 2 ^ s.params.mBits),
                                     BitVec.ofNat 8 (v.toNat / 2 ^ 16 % 2 ^ s.params.nBits)⟩,
                                   feed := .idle },
               hist := .write who .pllcfg v :: s.hist } ∧
    (∃ b, (s.busWrite who .pllcon v).clk.pllconPend = some b ∧ b.toNat = v.toNat % 2 ^ 2) ∧
    (s.params.wellFormed →
      ∃ c, (s.busWrite who .pllcfg v).clk.pllcfgPend = some c ∧ c.m.toNat = v.toNat % 2 ^ s.params.mBits ∧
        c.n.toNat = v.toNat / 2 ^ 16 % 2 ^ s.params.nBits)

/-- R40: `0xAA` arms the pair and keeps what is pending; a second one keeps it armed when nothing is pending, and sets
`refused` when something is; only bits 7 to 0 are compared. -/
def Obligations.FirstMagicValueArmsThePair : Prop :=
  ∀ (s : State) (who : Master) (v : Word), v.toNat % 2 ^ 8 = 0xAA →
    (s.clk.feed = .idle ∨ s.feedQuiet →
      s.busWrite who .pllfeed v =
        { s with clk := { s.clk with feed := .armed }, hist := .write who .pllfeed v :: s.hist }) ∧
    (s.clk.feed = .armed → s.clk.anyPend = true → (s.busWrite who .pllfeed v).clk.refused = true)

/-- R41: `0x55` in an armed pair makes every pending value live. -/
def Obligations.CompletePairCommits : Prop :=
  ∀ (s : State) (who : Master) (v : Word), v.toNat % 2 ^ 8 = 0x55 → s.clk.feed = .armed →
    s.busWrite who .pllfeed v =
      { s with clk := { s.clk with pllconLive := s.clk.pllconPend.getD s.clk.pllconLive,
                                   pllcfgLive := s.clk.pllcfgPend.getD s.clk.pllcfgLive,
                                   pllconPend := none, pllcfgPend := none, feed := .idle },
               hist := .write who .pllfeed v :: s.hist }

/-- R42: `0x55` without `0xAA` before it, and any third value, silently discard what is pending. -/
def Obligations.WrongFeedWriteDiscards : Prop :=
  ∀ (s : State) (who : Master) (v : Word),
    (v.toNat % 2 ^ 8 = 0x55 ∧ s.clk.feed = .idle) ∨ (v.toNat % 2 ^ 8 ≠ 0xAA ∧ v.toNat % 2 ^ 8 ≠ 0x55) →
    s.busWrite who .pllfeed v =
      { s with clk := { s.clk with pllconPend := none, pllcfgPend := none, feed := .idle },
               hist := .write who .pllfeed v :: s.hist }

/-- R43: a read of any register, and a write to any register but PLLFEED, between the two magic values voids the pair; then
the transaction has the effect it has with nothing pending and the feed idle; the live halves stay, and only a protected
write's own value is then pending. -/
def Obligations.InterveningTransactionVoidsThePair : Prop :=
  ∀ (s : State) (who : Master) (r : RegId) (v : Word), s.clk.feed = .armed →
    (let d := { s with clk := { s.clk with pllconPend := none, pllcfgPend := none, feed := .idle } }
     s.busRead who r = d.busRead who r ∧ (r ≠ .pllfeed → s.busWrite who r v = d.busWrite who r v)) ∧
    (let t := (s.busRead who r).2
     t.clk = { s.clk with pllconPend := none, pllcfgPend := none, feed := .idle } ∧ t.rtc = s.rtc) ∧
    (r ≠ .pllfeed →
      let t := s.busWrite who r v
      t.clk.feed = .idle ∧ t.clk.pllconLive = s.clk.pllconLive ∧ t.clk.pllcfgLive = s.clk.pllcfgLive ∧
      t.clk.refused = s.clk.refused ∧
      t.clk.pllconPend = (if r = .pllcon then some (v.extractLsb' 0 2) else none) ∧
      t.clk.pllcfgPend =
        (if r = .pllcfg then
          some ⟨BitVec.ofNat 16 (v.toNat % 2 ^ s.params.mBits), BitVec.ofNat 8 (v.toNat / 2 ^ 16 % 2 ^ s.params.nBits)⟩
        else none))

/-- R39 (c), R40, R44: in the cases the source does not settle the mark `refused` is set, the live halves stay, and nothing
that was not pending or written becomes pending (which of the pending values stay is the model's draw, log entry 5). -/
def Obligations.UnsettledFeedCasesAreMarked : Prop :=
  ∀ (s : State) (who : Master) (r : RegId) (v : Word), s.clk.anyPend = true →
    (s.clk.feed = .idle →
      (let t := (s.busRead who r).2
       t.clk.refused = true ∧ t.clk.pllconLive = s.clk.pllconLive ∧ t.clk.pllcfgLive = s.clk.pllcfgLive ∧
       (t.clk.pllconPend = none ∨ t.clk.pllconPend = s.clk.pllconPend) ∧
       (t.clk.pllcfgPend = none ∨ t.clk.pllcfgPend = s.clk.pllcfgPend)) ∧
      (r ≠ .pllfeed →
        let t := s.busWrite who r v
        t.clk.refused = true ∧ t.clk.pllconLive = s.clk.pllconLive ∧ t.clk.pllcfgLive = s.clk.pllcfgLive ∧
        (t.clk.pllconPend = none ∨
          t.clk.pllconPend = (if r = .pllcon then some (v.extractLsb' 0 2) else s.clk.pllconPend)) ∧
        (t.clk.pllcfgPend = none ∨
          t.clk.pllcfgPend =
            (if r = .pllcfg then
              some ⟨BitVec.ofNat 16 (v.toNat % 2 ^ s.params.mBits), BitVec.ofNat 8 (v.toNat / 2 ^ 16 % 2 ^ s.params.nBits)⟩
            else s.clk.pllcfgPend)))) ∧
    (s.clk.feed = .armed → v.toNat % 2 ^ 8 = 0xAA →
      let t := s.busWrite who .pllfeed v
      t.clk.refused = true ∧ t.clk.pllconLive = s.clk.pllconLive ∧ t.clk.pllcfgLive = s.clk.pllcfgLive ∧
      (t.clk.pllconPend = none ∨ t.clk.pllconPend = s.clk.pllconPend) ∧
      (t.clk.pllcfgPend = none ∨ t.clk.pllcfgPend = s.clk.pllcfgPend))

/-- R34, R41: a live half changes only when the second magic value completes an armed pair. -/
def Obligations.LiveHalvesChangeOnlyByACompletePair : Prop :=
  ∀ (s : State) (who : Master) (r : RegId) (v : Word),
    ((s.busRead who r).2.clk.pllconLive = s.clk.pllconLive ∧ (s.busRead who r).2.clk.pllcfgLive = s.clk.pllcfgLive) ∧
    ((s.busWrite who r v).clk.pllconLive ≠ s.clk.pllconLive ∨ (s.busWrite who r v).clk.pllcfgLive ≠ s.clk.pllcfgLive →
      r = .pllfeed ∧ v.toNat % 2 ^ 8 = 0x55 ∧ s.clk.feed = .armed)

/-- R44: the mark `refused` is cleared by nothing but a reset. -/
def Obligations.RefusedMarkStaysUntilReset : Prop :=
  ∀ s t : State, s.noReset → s.clk.refused = true → step s = .next t → t.clk.refused = true

/-! ### Sequencer commands -/

/-- R120: REGRD puts the register's word, or a drawn word for PLLFEED and OTHER, in A0 and nowhere else; the read is one bus
transaction. -/
def Obligations.RegrdReadsOneRegister : Prop :=
  ∀ (r : RegId) (s : State), s.ready → s.quiet → s.feedQuiet →
    (∀ v, readView s.clk s.rtc r = some v →
      exec (.regrd r) s =
        .next { s with x0 := v, clk := { s.clk with feed := .idle }, hist := .read .block r v :: s.hist,
                       status := 0x100#32 }) ∧
    (readView s.clk s.rtc r = none →
      (r = .pllfeed ∨ r = .other) ∧
      exec (.regrd r) s =
        .next { s with x0 := Config.freeWord s.draws, clk := { s.clk with feed := .idle },
                       hist := .read .block r (Config.freeWord s.draws) :: s.hist,
                       draws := s.draws + 1, status := 0x100#32 })

/-- R121: REGWR performs exactly one bus write, of A0, to every register it names. What that write does to each register is
said by the statements on bus writes above. -/
def Obligations.RegwrPerformsOneWrite : Prop :=
  ∀ (r : RegId) (s : State), s.ready → s.quiet →
    exec (.regwr r) s = .next { s.busWrite .block r s.x0 with status := 0x100#32 }

/-- R122: FEED makes the two writes of the pair and every pending value becomes live. -/
def Obligations.FeedCommitsWhatIsPending : Prop :=
  ∀ s : State, s.ready → s.quiet → s.clk.feed = .idle ∨ s.feedQuiet →
    exec .feed s =
      .next { s with
        clk := { s.clk with pllconLive := s.clk.pllconPend.getD s.clk.pllconLive,
                            pllcfgLive := s.clk.pllcfgPend.getD s.clk.pllcfgLive,
                            pllconPend := none, pllcfgPend := none, feed := .idle }
        hist := .write .block .pllfeed 0x00000055#32 :: .write .block .pllfeed 0x000000AA#32 :: s.hist
        status := 0x100#32 }

/-- R122, R251: a foreign transaction other than a PLLFEED write between FEED's two writes loses every pending value, and FEED
reports DONE all the same. -/
def Obligations.SplitPairLosesTheWrite : Prop :=
  ∀ (s : State) (op : BusOp), s.ready → s.clk.feed = .idle → s.slotsAhead 2 = [[], [.foreign op]] →
    (∀ v, op ≠ .write .pllfeed v) →
    ∃ t, exec .feed s = .next t ∧ t.status = 0x100#32 ∧ t.clk.pllconLive = s.clk.pllconLive ∧
      t.clk.pllcfgLive = s.clk.pllcfgLive ∧ t.clk.pllconPend = none ∧ t.clk.pllcfgPend = none ∧
      t.clk.refused = s.clk.refused

/-- R124: BARRIER adds one event and changes nothing but STATUS. -/
def Obligations.BarrierChangesNothing : Prop :=
  ∀ s : State, s.run = .running →
    exec .barrier s = .next { s with hist := .barrier :: s.hist, status := 0x100#32 }

/-- R126: CLKDIS from any live state with nothing pending: its twelve transactions in their order and its end state. -/
def Obligations.ClkdisPerformsTheTwelveTransactions : Prop :=
  ∀ s : State, s.ready → s.quiet → s.feedQuiet →
    exec .clkdis s =
      .next { s with
        clk := { s.clk with pllconLive := 0#2, pllcfgLive := ⟨0#16, 0#8⟩, feed := .idle, cclkcfg := 0#8,
                            clksrcsel := 0#2 }
        hist :=
          [.write .block .cclkcfg 0#32,
           .write .block .pllfeed 0x55#32, .write .block .pllfeed 0xAA#32, .write .block .pllcfg 0#32,
           .write .block .clksrcsel 0#32,
           .write .block .pllfeed 0x55#32, .write .block .pllfeed 0xAA#32, .write .block .pllcon 0#32,
           .write .block .pllfeed 0x55#32, .write .block .pllfeed 0xAA#32,
           .write .block .pllcon (if s.clk.pllconLive.getLsbD 0 then 1#32 else 0#32),
           .read .block .pllstat (pllstatWord s.clk.pllconLive s.clk.pllcfgLive)] ++ s.hist
        status := 0x100#32 }

/-- R127: the postcondition of CLKDIS with nothing pending at the start and no foreign transaction, whatever the calendar
agent does meanwhile; a FREQRB that nothing disturbs then returns `F_INT_HZ`. -/
def Obligations.ClkdisPostcondition : Prop :=
  ∀ s : State, s.ready → s.noForeign 12 → s.feedQuiet →
    ∃ t, exec .clkdis s = .next t ∧
      t.clk = { s.clk with pllconLive := 0#2, pllcfgLive := ⟨0#16, 0#8⟩, pllconPend := none, pllcfgPend := none,
                           feed := .idle, cclkcfg := 0#8, clksrcsel := 0#2 } ∧
      t.hist =
        [.write .block .cclkcfg 0#32,
         .write .block .pllfeed 0x55#32, .write .block .pllfeed 0xAA#32, .write .block .pllcfg 0#32,
         .write .block .clksrcsel 0#32,
         .write .block .pllfeed 0x55#32, .write .block .pllfeed 0xAA#32, .write .block .pllcon 0#32,
         .write .block .pllfeed 0x55#32, .write .block .pllfeed 0xAA#32,
         .write .block .pllcon (if s.clk.pllconLive.getLsbD 0 then 1#32 else 0#32),
         .read .block .pllstat (pllstatWord s.clk.pllconLive s.clk.pllcfgLive)] ++ s.hist ∧
      t.status = 0x100#32 ∧
      ∃ u, exec .freqrb { t with env := [], envLoop := [] } = .next u ∧ u.x2 = saturate s.params.fIntHz

/-- R128: RTCSET refuses an invalid TS and writes nothing. -/
def Obligations.RtcsetRefusesAnInvalidTime : Prop :=
  ∀ s : State, s.run = .running → s.ts.valid s.params = false →
    exec .rtcset s = .next { s with status := 0x120#32 }

/-- R128: RTCSET with a valid TS: its eleven transactions in their order, the counters equal to TS, the calendar running. -/
def Obligations.RtcsetWritesTheCalendar : Prop :=
  ∀ s : State, s.ready → s.quiet → s.feedQuiet → s.ts.valid s.params = true →
    exec .rtcset s =
      .next { s with
        clk := { s.clk with feed := .idle }
        rtc := { s.rtc with time := s.ts, clken := true }
        hist :=
          [.write .block .rtcccr (s.rtc.ccrx ++ 1#1), .write .block .doy (s.ts.doy.setWidth 32),
           .write .block .year (s.ts.year.setWidth 32), .write .block .month (s.ts.month.setWidth 32),
           .write .block .dom (s.ts.dom.setWidth 32), .write .block .dow (s.ts.dow.setWidth 32),
           .write .block .hour (s.ts.hour.setWidth 32), .write .block .min (s.ts.min.setWidth 32),
           .write .block .sec (s.ts.sec.setWidth 32), .write .block .rtcccr (s.rtc.ccrx ++ 0#1),
           .read .block .rtcccr (s.rtc.ccrx ++ BitVec.ofBool s.rtc.clken)] ++ s.hist
        status := 0x110#32 }

/-- R129: after RTCSET of a valid TS the counters equal TS field for field, `CLKEN` = 1 and `CCRX` is kept, whatever the
calendar agent does meanwhile; the command adds eleven transactions. -/
def Obligations.RtcsetPostcondition : Prop :=
  ∀ s : State, s.ready → s.noForeign 11 → s.ts.valid s.params = true →
    ∃ t, exec .rtcset s = .next t ∧ t.rtc.time = s.ts ∧ t.rtc.time.words.decodeCT = s.ts ∧ t.rtc.clken = true ∧
      t.rtc.ccrx = s.rtc.ccrx ∧ t.hist.length = s.hist.length + 11 ∧ t.ts = s.ts ∧ t.status = 0x110#32

/-- R130, R131, R132, R263: what an undisturbed BOOT leaves, every transaction it makes in its order, and that it changes
nothing else. The image may overlap the runtime regions (R77): the ascending byte order decides. -/
def Obligations.BootEstablishesTheExecutionState : Prop :=
  ∀ s : State, s.ready → s.quiet → s.feedQuiet → s.params.wellFormed → Memory.wf s.mem = true → s.booted = false →
    let P := s.params
    let n := P.sEdata.toNat - P.sData.toNat
    let good := s.rtc.time.valid P
    ∃ t, exec .boot s = .next t ∧
      (∀ i, i < n → Memory.read t.mem (P.sData.toNat + i) = imageByte P s.mem i) ∧
      (P.sIdata.toNat + n ≤ P.sData.toNat ∨ P.sEdata.toNat ≤ P.sIdata.toNat →
        ∀ i, i < n → Memory.read t.mem (P.sData.toNat + i) = Memory.read s.mem (P.sIdata.toNat + i)) ∧
      (∀ a, P.sEdata.toNat ≤ a → a < P.sEbss.toNat → Memory.read t.mem a = 0#8) ∧
      (∀ a, a < P.sData.toNat ∨ P.sEbss.toNat ≤ a → Memory.read t.mem a = Memory.read s.mem a) ∧
      t = { s with
        msp := P.stackTop
        psp := P.stackTop
        mem := t.mem
        cs := s.rtc.time.words
        ts := if good then s.rtc.time else epoch P
        rtc := if good then s.rtc else { s.rtc with time := epoch P, clken := true }
        clk := { s.clk with pllconLive := 0#2, pllcfgLive := ⟨0#16, 0#8⟩, feed := .idle, cclkcfg := 0#8,
                            clksrcsel := 0#2 }
        booted := true
        status := if good then 0x110#32 else 0x140#32
        hist :=
          disableEvents (pllstatWord s.clk.pllconLive s.clk.pllcfgLive)
            ++ (if good then [] else calendarEvents s.rtc.ccrWord (epoch P))
            ++ fullReadEvents s.rtc.time.words ++ fullReadEvents s.rtc.time.words
            ++ bootMemoryEvents P s.mem ++ s.hist }

/-- R132: BOOT with nothing pending at the start when only the calendar agent steps before its transactions. Its first round
leaves the stack pointers and memory as R132 says, whether its tear-free read ends or goes on; a later round leaves them
alone. When a round ends the read, BOOT has ended with the postconditions of RTCINIT (R186) and CLKDIS (R127), and the
history shows its transactions in their order: a stored time that was valid is read and not written, and one that was not is
replaced by the epoch. If the calendar then rests during CLKDIS's twelve transactions the counters still hold it. Staying in
flight between rounds is the model's (log entry 7). -/
def Obligations.BootPostcondition : Prop :=
  ∀ s t : State, s.run = .running → s.tickHang = none → s.feedQuiet → s.params.wellFormed → Memory.wf s.mem = true →
    let P := s.params
    let n := P.sEdata.toNat - P.sData.toNat
    let k := 2 * n + (P.sEbss.toNat - P.sEdata.toNat) + 29
    let round := fun (slots : Nat) (before : List BusEvent) =>
      (t.inflight = some .boot ∧ t.booted = s.booted ∧ t.cs = s.cs ∧ t.ts = s.ts ∧ t.status = s.status ∧
        t.clk = { s.clk with feed := .idle } ∧ t.rtc.clken = s.rtc.clken ∧ t.rtc.ccrx = s.rtc.ccrx ∧
        ∃ a b, a ≠ b ∧ t.hist = fullReadEvents b ++ fullReadEvents a ++ before) ∨
      (t.inflight = none ∧ t.booted = true ∧
        t.clk = { s.clk with pllconLive := 0#2, pllcfgLive := ⟨0#16, 0#8⟩, feed := .idle, cclkcfg := 0#8,
                             clksrcsel := 0#2 } ∧
        t.ts.valid P = true ∧ t.rtc.ccrx = s.rtc.ccrx ∧
        ((t.status = 0x110#32 ∧ t.ts = t.cs.decodeCT ∧ t.rtc.clken = s.rtc.clken ∧
            t.hist =
              disableEvents (pllstatWord s.clk.pllconLive s.clk.pllcfgLive)
                ++ fullReadEvents t.cs ++ fullReadEvents t.cs ++ before) ∨
          (t.status = 0x140#32 ∧ t.cs.decodeCT.valid P = false ∧ t.ts = epoch P ∧ t.rtc.clken = true ∧
            ((∀ sl ∈ (s.slotsAhead slots).drop (slots - 12), sl = []) → t.rtc.time = epoch P) ∧
            t.hist =
              disableEvents (pllstatWord s.clk.pllconLive s.clk.pllcfgLive)
                ++ calendarEvents s.rtc.ccrWord (epoch P)
                ++ fullReadEvents t.cs ++ fullReadEvents t.cs ++ before)))
    (s.inflight = none → s.booted = false → s.noForeign k → exec .boot s = .next t →
      t.run = .running ∧ t.tickHang = none ∧ t.msp = P.stackTop ∧ t.psp = P.stackTop ∧
      (∀ i, i < n → Memory.read t.mem (P.sData.toNat + i) = imageByte P s.mem i) ∧
      (∀ a, P.sEdata.toNat ≤ a → a < P.sEbss.toNat → Memory.read t.mem a = 0#8) ∧
      (∀ a, a < P.sData.toNat ∨ P.sEbss.toNat ≤ a → Memory.read t.mem a = Memory.read s.mem a) ∧
      round k (bootMemoryEvents P s.mem ++ s.hist)) ∧
    (s.inflight = some .boot → s.noForeign 29 → step s = .next t →
      t.run = .running ∧ t.tickHang = none ∧ t.msp = s.msp ∧ t.psp = s.psp ∧ t.mem = s.mem ∧ round 29 s.hist)

/-- R245: no command but BOOT touches memory, MSP or PSP, whatever the other agents do short of a reset; nor does a later round
of RTCREAD or RTCINIT (that a step is one round is the model's, log entry 7). -/
def Obligations.OnlyBootTouchesMemoryAndStacks : Prop :=
  (∀ (i : Instr) (s t : State), i ≠ .boot → s.noReset → exec i s = .next t →
    t.mem = s.mem ∧ t.msp = s.msp ∧ t.psp = s.psp) ∧
  (∀ s t : State, s.inflight = some .rtcread ∨ s.inflight = some .rtcinit → s.noReset → step s = .next t →
    t.mem = s.mem ∧ t.msp = s.msp ∧ t.psp = s.psp)

/-! ### PLL arithmetic -/

/-- R152 to R154: over the whole space of three fields of M_BITS, N_BITS and D_BITS bits, PLLSRCH returns the
lexicographically least exact triple if there is one, else the lexicographically greatest viable one, and says which; it
changes nothing but PR, A2, A3, STATUS and, when it draws, the draw index. A2 and A3 saturate where the rule's frequency has no 32-bit value (log entry 15). -/
def Obligations.PllsrchFindsLeastExactElseLastViable : Prop :=
  ∀ s : State, s.run = .running → s.params.wellFormed →
    let P := s.params
    let des := s.x0.toNat
    let inp := s.x1.toNat
    let pll := fun m n : Nat => 2 * (m + 1) * inp / (n + 1)
    let cpu := fun m n d : Nat => pll m n / (d + 1)
    let good := fun m n d : Nat => P.fccoMinKhz ≤ pll m n ∧ pll m n ≤ P.fccoMaxKhz ∧ cpu m n d ≤ P.cpuMaxKhz
    ∃ t, exec .pllsrch s = .next t ∧
      t = { s with pr := t.pr, x2 := t.x2, x3 := t.x3, status := t.status, draws := t.draws } ∧
      let m := t.pr.m.toNat
      let n := t.pr.n.toNat
      let d := t.pr.d.toNat
      ((t.status = 0x103#32 ∧ inSpace P m n d ∧ good m n d ∧ cpu m n d = des ∧
          t.x2.toNat = Nat.min (pll m n) (2 ^ 32 - 1) ∧
          t.x3.toNat = Nat.min (cpu m n d) (2 ^ 32 - 1) ∧ t.draws = s.draws ∧
          ∀ m' n' d', inSpace P m' n' d' → good m' n' d' → cpu m' n' d' = des →
            lexLe m n d m' n' d') ∨
        (t.status = 0x102#32 ∧ inSpace P m n d ∧ good m n d ∧
          t.x2.toNat = Nat.min (pll m n) (2 ^ 32 - 1) ∧
          t.x3.toNat = Nat.min (cpu m n d) (2 ^ 32 - 1) ∧ t.draws = s.draws ∧
          ∀ m' n' d', inSpace P m' n' d' → good m' n' d' →
            cpu m' n' d' ≠ des ∧ lexLe m' n' d' m n d) ∨
        (t.status = 0x100#32 ∧ ∀ m' n' d', inSpace P m' n' d' → ¬ good m' n' d'))

/-- R154 (e): an inexact result always has `d` = `D_MAX`, the largest value of D_BITS bits. -/
def Obligations.InexactResultHasTheLargestDivider : Prop :=
  ∀ s t : State, s.run = .running → s.params.wellFormed → exec .pllsrch s = .next t → t.status = 0x102#32 →
    t.pr.d.toNat = 2 ^ s.params.dBits - 1

/-- R155: PLLCHK's flags from the exact frequencies and its saturated outputs. -/
def Obligations.PllchkTestsTheTriple : Prop :=
  ∀ s : State, s.run = .running →
    let f := 2 * (s.pr.m.toNat + 1) * s.x1.toNat / (s.pr.n.toNat + 1)
    let c := f / (s.pr.d.toNat + 1)
    let lock := decide (s.params.fccoMinKhz ≤ f ∧ f ≤ s.params.fccoMaxKhz)
    let cpu := decide (c ≤ s.params.cpuMaxKhz)
    exec .pllchk s =
      .next { s with
        x2 := BitVec.ofNat 32 (Nat.min f (2 ^ 32 - 1))
        x3 := BitVec.ofNat 32 (Nat.min c (2 ^ 32 - 1))
        status :=
          if lock && cpu then 0x10E#32 else if lock then 0x104#32 else if cpu then 0x108#32 else 0x100#32 }

/-- R157: FREQRB reads the selector, PLLSTAT and, only with the PLL enabled and connected, CCLKCFG; A2 is the saturated
frequency, or a draw for the reserved selector value 3. -/
def Obligations.FreqrbReconstructsTheFrequency : Prop :=
  ∀ s : State, s.ready → s.quiet → s.feedQuiet → s.Inv → s.params.wellFormed →
    let c := s.clk
    let pllOn := decide (c.pllconLive = 3#2)
    let hz := fun base : Nat =>
      if pllOn then
        (2 * (c.pllcfgLive.m.toNat + 1) * base / (c.pllcfgLive.n.toNat + 1)) / (c.cclkcfg.toNat + 1)
      else base
    let t : State :=
      { s with
        clk := { c with feed := .idle }
        hist :=
          (if pllOn then [.read .block .cclkcfg (c.cclkcfg.setWidth 32)] else [])
            ++ [.read .block .pllstat (pllstatWord c.pllconLive c.pllcfgLive),
                .read .block .clksrcsel (c.clksrcsel.setWidth 32)] ++ s.hist }
    exec .freqrb s =
      .next
        (if c.clksrcsel = 3#2 then
          { t with x2 := Config.freeWord s.draws, draws := s.draws + 1, status := 0x300#32 }
        else
          { t with
            x2 := BitVec.ofNat 32 (Nat.min
              (hz (if c.clksrcsel = 0#2 then s.params.fIntHz
                else if c.clksrcsel = 1#2 then s.params.fMainHz else s.params.fRtcHz)) (2 ^ 32 - 1))
            status := 0x100#32 })

/-- R158: the readback of a live configuration gives, in kilohertz, exactly the frequency the search computes for it, when
the result does not saturate: when the exact frequency in hertz is at most 2^32 - 1. -/
def Obligations.SearchAndReadbackRoundTrip : Prop :=
  ∀ (s t : State) (khz : Nat), s.ready → s.quiet → s.Inv → s.params.wellFormed → s.clk.pllconLive = 3#2 →
    srcHz s.params s.clk.clksrcsel = some (1000 * khz) → exec .freqrb s = .next t →
    let cpu := fun f : Nat =>
      2 * (s.clk.pllcfgLive.m.toNat + 1) * f / (s.clk.pllcfgLive.n.toNat + 1) / (s.clk.cclkcfg.toNat + 1)
    cpu (1000 * khz) ≤ 2 ^ 32 - 1 → t.x2.toNat / 1000 = cpu khz

/-! ### The tear-free reader -/

/-- R171: RTCREAD of a calendar that holds still: six reads, CS and TS the counters, VALID by the validity rule. -/
def Obligations.RtcreadOfAQuietCalendar : Prop :=
  ∀ s : State, s.ready → s.quiet → s.feedQuiet →
    exec .rtcread s =
      .next { s with
        cs := s.rtc.time.words
        ts := s.rtc.time
        clk := { s.clk with feed := .idle }
        hist := fullReadEvents s.rtc.time.words ++ fullReadEvents s.rtc.time.words ++ s.hist
        status := if s.rtc.time.valid s.params then 0x110#32 else 0x100#32 }

/-- R171, R172: whatever the other agents do, a round of RTCREAD, the first or a later one, either ends with the words of its
two equal full reads in CS and their decoding in TS, or its two full reads differ and it stays in flight with CS, TS and
STATUS untouched, or it is abandoned with them untouched (or a reset has come). That it stays in flight between rounds, one
round a step, and is abandoned by a hung tick handler is the model's reading (log entries 7 and 12). -/
def Obligations.RtcreadReturnsOnlyTwoEqualFullReads : Prop :=
  ∀ s t : State, s.run = .running → s.tickHang = none →
    (s.inflight = none ∧ exec .rtcread s = .next t) ∨ (s.inflight = some .rtcread ∧ step s = .next t) →
    (∃ c, t.cs = c ∧ t.ts = c.decodeCT ∧ t.inflight = none ∧
      t.status = (if c.decodeCT.valid s.params then 0x110#32 else 0x100#32) ∧
      t.hist.filter BusEvent.byBlock = fullReadEvents c ++ fullReadEvents c ++ s.hist.filter BusEvent.byBlock) ∨
    (∃ a b, a ≠ b ∧ t.inflight = some .rtcread ∧ t.cs = s.cs ∧ t.ts = s.ts ∧ t.status = s.status ∧
      t.hist.filter BusEvent.byBlock = fullReadEvents b ++ fullReadEvents a ++ s.hist.filter BusEvent.byBlock) ∨
    (t.cs = s.cs ∧ t.ts = s.ts ∧ t.status = s.status ∧ t.inflight = none ∧ (t.run ≠ .running ∨ t.tickHang ≠ none)) ∨
    (∃ sl ∈ s.slotsAhead 6, ∃ e ∈ sl, EnvEvent.isReset e = true)

/-- R173: a round of RTCREAD whose two full reads differ does not end it, whatever times the calendar agent went through: it
makes its six reads and stays in flight with CS, TS and STATUS untouched. So as long as the calendar changes between the two
full reads of every round, RTCREAD never ends. Nothing is pending and no other agent steps; that a step is one round is the
model's (log entry 7). -/
def Obligations.RtcreadNeverEndsOnAnUnendingChange : Prop :=
  (∀ s : State, s.run = .running → s.tickHang = none → s.inflight = some .rtcread → s.feedQuiet → s.noForeign 6 →
    s.roundAhead.1 ≠ s.roundAhead.2 →
    ∃ t, step s = .next t ∧ t.inflight = some .rtcread ∧ t.run = .running ∧ t.tickHang = none ∧ t.feedQuiet ∧
      t.cs = s.cs ∧ t.ts = s.ts ∧ t.status = s.status ∧
      t.hist = fullReadEvents s.roundAhead.2 ++ fullReadEvents s.roundAhead.1 ++ s.hist) ∧
  (∀ (k : Nat) (s : State), s.run = .running → s.tickHang = none → s.inflight = some .rtcread → s.feedQuiet →
    (∀ j t, j < k → core.run j s = .next t → t.noForeign 6 ∧ t.roundAhead.1 ≠ t.roundAhead.2) →
    ∃ t, core.run k s = .next t ∧ t.inflight = some .rtcread ∧ t.cs = s.cs ∧ t.ts = s.ts ∧ t.status = s.status)

/-- R174: under `Ct0Moves`, with nothing pending and when only the calendar agent steps, a round of RTCREAD, the first or a
later one, that succeeds returns the calendar as it stood at the round's first read. The steps before the second, third and
fourth reads are those between t1 and t4. That a step is one round is the model's (log entry 7). -/
def Obligations.RtcreadReturnsASingleInstant : Prop :=
  ∀ (s t : State) (e0 e1 e2 e3 e4 e5 : Slot), s.run = .running → s.tickHang = none → s.feedQuiet → s.noForeign 6 →
    s.slotsAhead 6 = [e0, e1, e2, e3, e4, e5] →
    (s.rtc.clken = true → (ct0Trace (e1 ++ e2 ++ e3) (s.dropSlot.agentSteps e0)).Nodup) →
    (s.inflight = none ∧ exec .rtcread s = .next t) ∨ (s.inflight = some .rtcread ∧ step s = .next t) →
    t.inflight = none →
    t.cs = (s.dropSlot.agentSteps e0).rtc.time.words ∧ t.ts = (s.dropSlot.agentSteps e0).rtc.time

/-! ### The calendar value -/

/-- R181: the validity predicate, conjunct by conjunct, over R16's lengths of months and years and its leap-year predicate,
which by default is `year mod 4 = 0` and otherwise differs from it at the parameter's listed years. The lengths 30 and 31 of ten months are R16's own general knowledge, as
the spec marks them (PRESUMED, log entry 20). -/
def Obligations.ValidIsTheCalendarRule : Prop :=
  ∀ (P : Params) (t : RtcTime) (y : BitVec 16) (mo : Nat),
    (P.leapFlips = [] → (isLeap P y = true ↔ y.toNat % 4 = 0)) ∧
    (isLeap P y = true ↔ (y.toNat % 4 = 0 ∧ y ∉ P.leapFlips) ∨ (y.toNat % 4 ≠ 0 ∧ y ∈ P.leapFlips)) ∧
    daysInYear P y = (if isLeap P y then 366 else 365) ∧
    daysInMonth P mo y =
      (if mo = 0 ∨ 12 < mo then none
       else if mo = 4 ∨ mo = 6 ∨ mo = 9 ∨ mo = 11 then some 30
       else if mo = 2 then some (if isLeap P y then 29 else 28) else some 31) ∧
    (t.valid P = true ↔
      t.sec.toNat ≤ 59 ∧ t.min.toNat ≤ 59 ∧ t.hour.toNat ≤ 23 ∧ t.dow.toNat ≤ 6 ∧
      1 ≤ t.month.toNat ∧ t.month.toNat ≤ 12 ∧ 1 ≤ t.dom.toNat ∧
      t.dom.toNat ≤
        (if t.month.toNat = 4 ∨ t.month.toNat = 6 ∨ t.month.toNat = 9 ∨ t.month.toNat = 11 then 30
         else if t.month.toNat = 2 then (if isLeap P t.year then 29 else 28) else 31) ∧
      1 ≤ t.doy.toNat ∧ t.doy.toNat ≤ (if isLeap P t.year then 366 else 365))

/-- R183: TSDEF loads the default epoch, which is valid for every `EPOCH_DOW` in 0..6 and every leap rule, and its words. -/
def Obligations.TsdefLoadsTheEpoch : Prop :=
  ∀ s : State, s.run = .running →
    exec .tsdef s =
      .next { s with ts := { sec := 0#6, min := 0#6, hour := 0#5, dow := s.params.epochDow, dom := 1#5, month := 1#4,
                             year := 1970#16, doy := 1#12 },
                     status := 0x100#32 } ∧
    (s.params.epochDow.toNat ≤ 6 → (epoch s.params).valid s.params = true) ∧
    (epoch s.params).words = ⟨s.params.epochDow.setWidth 32 <<< 24, 0x07B20101#32, 0x00000001#32⟩

/-- R184: RTCVAL reports the validity of TS and changes nothing else. -/
def Obligations.RtcvalTestsTheTime : Prop :=
  ∀ s : State, s.run = .running →
    exec .rtcval s = .next { s with status := if s.ts.valid s.params then 0x110#32 else 0x100#32 }

/-- R185: RTCINIT keeps a valid stored time and writes nothing. -/
def Obligations.RtcinitKeepsAValidTime : Prop :=
  ∀ s : State, s.ready → s.quiet → s.feedQuiet → s.rtc.time.valid s.params = true →
    exec .rtcinit s =
      .next { s with
        cs := s.rtc.time.words
        ts := s.rtc.time
        clk := { s.clk with feed := .idle }
        hist := fullReadEvents s.rtc.time.words ++ fullReadEvents s.rtc.time.words ++ s.hist
        status := 0x110#32 }

/-- R185: RTCINIT replaces an invalid stored time wholesale by the default epoch and leaves the calendar running; CS shows the
rejected words. -/
def Obligations.RtcinitReplacesAnInvalidTime : Prop :=
  ∀ s : State, s.ready → s.quiet → s.feedQuiet → s.rtc.time.valid s.params = false →
    exec .rtcinit s =
      .next { s with
        cs := s.rtc.time.words
        ts := epoch s.params
        clk := { s.clk with feed := .idle }
        rtc := { s.rtc with time := epoch s.params, clken := true }
        hist :=
          writeEvents (calendarWrites s.rtc.ccrWord (epoch s.params)) ++ [.read .block .rtcccr s.rtc.ccrWord]
            ++ fullReadEvents s.rtc.time.words ++ fullReadEvents s.rtc.time.words ++ s.hist
        status := 0x140#32 }

/-- R186: when RTCINIT ends, in its first round or a later one, and only the calendar agent stepped in that round, TS is
valid, and either the block only read, six times, a time that was valid, or after the six reads it made exactly the eleven
transactions that write the epoch, the counters hold it and the calendar runs. That a step is one round is the model's (log
entry 7). -/
def Obligations.RtcinitPostcondition : Prop :=
  ∀ s t : State, s.run = .running → s.tickHang = none → s.noForeign 17 → s.params.wellFormed →
    (s.inflight = none ∧ exec .rtcinit s = .next t) ∨ (s.inflight = some .rtcinit ∧ step s = .next t) →
    t.inflight = none →
    t.ts.valid s.params = true ∧
    ((t.status = 0x110#32 ∧ t.cs.decodeCT = t.ts ∧ t.rtc.clken = s.rtc.clken ∧ t.rtc.ccrx = s.rtc.ccrx ∧
        t.hist = fullReadEvents t.cs ++ fullReadEvents t.cs ++ s.hist) ∨
     (t.status = 0x140#32 ∧ t.cs.decodeCT.valid s.params = false ∧ t.ts = epoch s.params ∧
        t.rtc.time = epoch s.params ∧ t.rtc.clken = true ∧ t.rtc.ccrx = s.rtc.ccrx ∧
        t.hist =
          calendarEvents s.rtc.ccrWord (epoch s.params) ++ fullReadEvents t.cs ++ fullReadEvents t.cs ++ s.hist))

/-- R187 to R190: the four setters whose field has a plain range. -/
def Obligations.RangeSettersTakeOrRefuse : Prop :=
  ∀ (s : State) (v : BitVec 16), s.run = .running →
    exec (.setsec v) s =
      .next (if v.toNat ≤ 59 then { s with ts := { s.ts with sec := BitVec.ofNat 6 v.toNat }, status := 0x100#32 }
             else { s with status := 0x120#32 }) ∧
    exec (.setmin v) s =
      .next (if v.toNat ≤ 59 then { s with ts := { s.ts with min := BitVec.ofNat 6 v.toNat }, status := 0x100#32 }
             else { s with status := 0x120#32 }) ∧
    exec (.sethour v) s =
      .next (if v.toNat ≤ 23 then { s with ts := { s.ts with hour := BitVec.ofNat 5 v.toNat }, status := 0x100#32 }
             else { s with status := 0x120#32 }) ∧
    exec (.setdow v) s =
      .next (if v.toNat ≤ 6 then { s with ts := { s.ts with dow := BitVec.ofNat 3 v.toNat }, status := 0x100#32 }
             else { s with status := 0x120#32 })

/-- R191, R192: the day-of-month and month setters check each other's field and the year; a month outside 1..12 refuses. -/
def Obligations.DayAndMonthSettersCheckSiblings : Prop :=
  ∀ (s : State) (v : BitVec 16), s.run = .running →
    exec (.setdom v) s =
      .next (if 1 ≤ v.toNat ∧ ∃ k, daysInMonth s.params s.ts.month.toNat s.ts.year = some k ∧ v.toNat ≤ k then
               { s with ts := { s.ts with dom := BitVec.ofNat 5 v.toNat }, status := 0x100#32 }
             else { s with status := 0x120#32 }) ∧
    exec (.setmon v) s =
      .next (if 1 ≤ v.toNat ∧ v.toNat ≤ 12 ∧ ∃ k, daysInMonth s.params v.toNat s.ts.year = some k ∧ s.ts.dom.toNat ≤ k then
               { s with ts := { s.ts with month := BitVec.ofNat 4 v.toNat }, status := 0x100#32 }
             else { s with status := 0x120#32 })

/-- R193, R194: the year and day-of-year setters. -/
def Obligations.YearSettersCheckSiblings : Prop :=
  ∀ (s : State) (v : BitVec 16), s.run = .running →
    exec (.setyear v) s =
      .next (if (∃ k, daysInMonth s.params s.ts.month.toNat v = some k ∧ s.ts.dom.toNat ≤ k) ∧
                 s.ts.doy.toNat ≤ daysInYear s.params v then
               { s with ts := { s.ts with year := v }, status := 0x100#32 }
             else { s with status := 0x120#32 }) ∧
    exec (.setdoy v) s =
      .next (if 1 ≤ v.toNat ∧ v.toNat ≤ daysInYear s.params s.ts.year then
               { s with ts := { s.ts with doy := BitVec.ofNat 12 v.toNat }, status := 0x100#32 }
             else { s with status := 0x120#32 })

/-- R195 (c): from a valid TS a setter accepts `v` exactly when TS with that field replaced by `v` is valid, and TS is valid
afterwards either way. -/
def Obligations.SettersKeepAValidTimeValid : Prop :=
  ∀ (s t : State) (v : BitVec 16), s.run = .running → s.ts.valid s.params = true →
    (∀ i ∈ [Instr.setsec v, .setmin v, .sethour v, .setdow v, .setdom v, .setmon v, .setyear v, .setdoy v],
      exec i s = .next t → t.ts.valid s.params = true ∧ (t.status = 0x100#32 ∨ t.status = 0x120#32)) ∧
    (exec (.setsec v) s = .next t →
      (t.status = 0x100#32 ↔ v.toNat < 2 ^ 6 ∧ { s.ts with sec := BitVec.ofNat 6 v.toNat }.valid s.params = true)) ∧
    (exec (.setmin v) s = .next t →
      (t.status = 0x100#32 ↔ v.toNat < 2 ^ 6 ∧ { s.ts with min := BitVec.ofNat 6 v.toNat }.valid s.params = true)) ∧
    (exec (.sethour v) s = .next t →
      (t.status = 0x100#32 ↔ v.toNat < 2 ^ 5 ∧ { s.ts with hour := BitVec.ofNat 5 v.toNat }.valid s.params = true)) ∧
    (exec (.setdow v) s = .next t →
      (t.status = 0x100#32 ↔ v.toNat < 2 ^ 3 ∧ { s.ts with dow := BitVec.ofNat 3 v.toNat }.valid s.params = true)) ∧
    (exec (.setdom v) s = .next t →
      (t.status = 0x100#32 ↔ v.toNat < 2 ^ 5 ∧ { s.ts with dom := BitVec.ofNat 5 v.toNat }.valid s.params = true)) ∧
    (exec (.setmon v) s = .next t →
      (t.status = 0x100#32 ↔ v.toNat < 2 ^ 4 ∧ { s.ts with month := BitVec.ofNat 4 v.toNat }.valid s.params = true)) ∧
    (exec (.setyear v) s = .next t →
      (t.status = 0x100#32 ↔ { s.ts with year := v }.valid s.params = true)) ∧
    (exec (.setdoy v) s = .next t →
      (t.status = 0x100#32 ↔ v.toNat < 2 ^ 12 ∧ { s.ts with doy := BitVec.ofNat 12 v.toNat }.valid s.params = true))

/-! ### The other agents and the host -/

/-- R50 and spec/93 section 2: the calendar agent changes only the counters and TICKIF, and nothing while `CLKEN` = 0; that it
does not set TICKIF then either is the model's reading (log entry 14). Its step by `RtcSucc` adds one second with calendar
carry to a valid time, and draws the counters on an invalid one (the spec's own general knowledge, log entries 20 and 4). -/
def Obligations.CalendarAgentIsFrozenWhileStopped : Prop :=
  ∀ (s : State) (t : RtcTime) (tick : Bool),
    (s.rtc.clken = true →
      s.agentStep (.rtcStep t tick) = { s with rtc := { s.rtc with time := t, tickif := s.rtc.tickif || tick } }) ∧
    (s.rtc.clken = false → s.agentStep (.rtcStep t tick) = s ∧ s.agentStep .rtcSecond = s) ∧
    (s.rtc.clken = true → s.rtc.time.valid s.params = true →
      let c := s.rtc.time
      let lastDay := daysInMonth s.params c.month.toNat c.year = some c.dom.toNat
      s.agentStep .rtcSecond =
        { s with
          rtc := { s.rtc with
            tickif := true
            time :=
              if c.sec.toNat < 59 then { c with sec := BitVec.ofNat 6 (c.sec.toNat + 1) }
              else if c.min.toNat < 59 then { c with sec := 0#6, min := BitVec.ofNat 6 (c.min.toNat + 1) }
              else if c.hour.toNat < 23 then
                { c with sec := 0#6, min := 0#6, hour := BitVec.ofNat 5 (c.hour.toNat + 1) }
              else
                { sec := 0#6, min := 0#6, hour := 0#5
                  dow := BitVec.ofNat 3 ((c.dow.toNat + 1) % 7)
                  dom := if lastDay then 1#5 else BitVec.ofNat 5 (c.dom.toNat + 1)
                  month :=
                    if lastDay then (if c.month.toNat = 12 then 1#4 else BitVec.ofNat 4 (c.month.toNat + 1)) else c.month
                  year :=
                    if lastDay ∧ c.month.toNat = 12 then BitVec.ofNat 16 ((c.year.toNat + 1) % 65536) else c.year
                  doy :=
                    if lastDay ∧ c.month.toNat = 12 then 1#12 else BitVec.ofNat 12 (c.doy.toNat + 1) } } }) ∧
    (s.rtc.clken = true → s.rtc.time.valid s.params = false →
      let u := s.agentStep .rtcSecond
      u = { s with rtc := { s.rtc with time := u.rtc.time, tickif := true }, draws := s.draws + 3 })

/-- R214, R258: the tick handler clears TICKIF by its write to RTCILR and then acts on OTHER, once or more, and changes nothing
else but the feed machinery through the mere presence of its transactions. One that does not clear TICKIF hangs: it is
dispatched again in every step, its transactions come once more, and neither the host nor a command acts (that each run makes
the same transactions is the model's choice, log entry 12). -/
def Obligations.TickHandlerMustClearTheFlag : Prop :=
  ∀ (s : State) (wd : WatchdogFeed), s.ready → s.rtc.tickif = true → s.params.tickEnabled = true →
    (wd.requests ≠ [] ∧ ∀ q ∈ wd.requests, q = some (.foreign, .read .other) ∨ ∃ v, q = some (.foreign, .write .other v)) ∧
    (let t := s.agentStep (.tick true wd)
     t = { s with
       rtc := { s.rtc with tickif := false }
       clk := { s.clk with pllconPend := t.clk.pllconPend, pllcfgPend := t.clk.pllcfgPend, feed := .idle,
                           refused := t.clk.refused }
       hist := t.hist
       draws := t.draws } ∧
     (s.clk.feed = .armed ∨ s.feedQuiet →
       t.clk.pllconPend = none ∧ t.clk.pllcfgPend = none ∧ t.clk.refused = s.clk.refused) ∧
     ∃ es, t.hist = es ++ .write .foreign .rtcilr 1#32 :: s.hist ∧ es.map BusEvent.request = wd.requests) ∧
    (let t := s.agentStep (.tick false wd)
     t = { s with
       tickHang := some wd
       clk := { s.clk with pllconPend := t.clk.pllconPend, pllcfgPend := t.clk.pllcfgPend, feed := .idle,
                           refused := t.clk.refused }
       hist := t.hist
       draws := t.draws } ∧
     (∃ es, t.hist = es ++ s.hist ∧ es.map BusEvent.request = wd.requests) ∧
     (s.quiet →
       ∃ u, step t = .next u ∧
         u = { t with
           clk := { t.clk with pllconPend := u.clk.pllconPend, pllcfgPend := u.clk.pllcfgPend, refused := u.clk.refused }
           hist := u.hist
           draws := u.draws } ∧
         ∃ es, u.hist = es ++ t.hist ∧ es.map BusEvent.request = wd.requests))

/-- R101: the host port. The word a host reads at an offset the rule does not list is the model's draw (log entry 4). -/
def Obligations.HostPortAccess : Prop :=
  ∀ (s : State) (rest : List HostAct) (off v : Word), s.ready → s.quiet →
    (s.host = .write 0x18#32 v :: rest →
      ∃ t, step s = .next t ∧ t = { s with pr := t.pr, host := rest } ∧
        t.pr.m.toNat = v.toNat % 2 ^ 16 % 2 ^ s.params.mBits ∧
        t.pr.n.toNat = v.toNat / 2 ^ 16 % 2 ^ 8 % 2 ^ s.params.nBits ∧
        t.pr.d.toNat = v.toNat / 2 ^ 24 % 2 ^ s.params.dBits) ∧
    (s.host = .write 0x08#32 v :: rest → step s = .next { s with x0 := v, host := rest }) ∧
    (s.host = .write 0x0C#32 v :: rest → step s = .next { s with x1 := v, host := rest }) ∧
    (s.host = .write 0x10#32 v :: rest → step s = .next { s with x2 := v, host := rest }) ∧
    (s.host = .write 0x14#32 v :: rest → step s = .next { s with x3 := v, host := rest }) ∧
    (s.host = .write off v :: rest → off ∉ [0x00#32, 0x08#32, 0x0C#32, 0x10#32, 0x14#32, 0x18#32] →
      step s = .next { s with host := rest }) ∧
    (s.host = .read off :: rest →
      (off, v) ∈ [(0x00#32, 0#32), (0x04#32, s.status), (0x08#32, s.x0), (0x0C#32, s.x1), (0x10#32, s.x2),
        (0x14#32, s.x3), (0x18#32, s.pr.d ++ s.pr.n ++ s.pr.m), (0x1C#32, s.ts.ct0), (0x20#32, s.ts.ct1),
        (0x24#32, s.ts.ct2), (0x28#32, s.cs.c0), (0x2C#32, s.cs.c1), (0x30#32, s.cs.c2)] →
      step s = .next { s with rdata := v, host := rest }) ∧
    (s.host = .read off :: rest →
      off ∉ [0x00#32, 0x04#32, 0x08#32, 0x0C#32, 0x10#32, 0x14#32, 0x18#32, 0x1C#32, 0x20#32, 0x24#32, 0x28#32, 0x2C#32,
        0x30#32] →
      step s = .next { s with rdata := Config.freeWord s.draws, draws := s.draws + 1, host := rest })

/-! ### What every step keeps -/

/-- The invariant holds of the state after reset, whose unspecified values and parameter set are the model's choice (log
entries 1 and 2). -/
def Obligations.ResetStateMeetsTheInvariant : Prop := State.reset.Inv

/-- Every step keeps the invariant and the parameter set: canonical memory, every field within its width, STATUS one of its
words, the run state consistent with frame, hang and command in flight. The last three clauses rest on the model's choices:
where the frame is discarded (log entries 11 and 22), how a tick handler hangs (log entry 12), and that a command can be in
flight between two steps (log entry 7). -/
def Obligations.EveryStepKeepsTheInvariant : Prop :=
  ∀ s t : State, s.Inv → step s = .next t → t.Inv ∧ t.params = s.params
end

