-- ==== Sys2Proof/Laws/Memory.lean ====
section
/-! SUPPORT. Memory: what a write leaves, and that every operation keeps the canonical form. -/

namespace Sys2Proof.Machine

@[simp] theorem Memory.read_nil (a : Nat) : Memory.read [] a = 0#8 := rfl

/-- A write leaves every other address alone. -/
theorem Memory.read_write_of_ne (m : Memory) (a b : Nat) (v : Sys2Proof.Byte) (h : b ≠ a) :
    Memory.read (Memory.write m a v) b = Memory.read m b := by
  induction m with
  | nil =>
    unfold Memory.write
    split <;> simp [Memory.read, h, Memory.unlisted]
  | cons c rest ih =>
    obtain ⟨k, w⟩ := c
    unfold Memory.write
    split
    · split <;> simp [Memory.read, h]
    · split
      · next hk => subst hk; split <;> simp [Memory.read, h]
      · simp only [Memory.read]; rw [ih]

theorem Memory.wfFrom_mono {lo lo' : Nat} (h : lo' ≤ lo) {m : Memory} (hm : Memory.wfFrom lo m = true) :
    Memory.wfFrom lo' m = true := by
  cases m with
  | nil => rfl
  | cons c rest =>
    obtain ⟨k, w⟩ := c
    simp only [Memory.wfFrom, Bool.and_eq_true, decide_eq_true_eq] at hm ⊢
    exact ⟨⟨⟨by omega, hm.1.1.2⟩, hm.1.2⟩, hm.2⟩

/-- Below the bound of a canonical list nothing is listed. -/
theorem Memory.read_of_lt {lo : Nat} {m : Memory} (hm : Memory.wfFrom lo m = true) {a : Nat} (h : a < lo) :
    Memory.read m a = 0#8 := by
  induction m generalizing lo with
  | nil => rfl
  | cons c rest ih =>
    obtain ⟨k, w⟩ := c
    simp only [Memory.wfFrom, Bool.and_eq_true, decide_eq_true_eq] at hm
    have hk : a ≠ k := by omega
    simp only [Memory.read, if_neg hk]
    exact ih hm.2 (by omega)

theorem Memory.wfFrom_write {lo : Nat} {m : Memory} (hm : Memory.wfFrom lo m = true) {a : Nat} (h : lo ≤ a)
    (ha : a < 2 ^ 32) (v : Sys2Proof.Byte) : Memory.wfFrom lo (Memory.write m a v) = true := by
  induction m generalizing lo with
  | nil =>
    unfold Memory.write
    split
    · rfl
    · next hv => simpa [Memory.wfFrom, h, hv] using ha
  | cons c rest ih =>
    obtain ⟨k, w⟩ := c
    simp only [Memory.wfFrom, Bool.and_eq_true, decide_eq_true_eq] at hm
    unfold Memory.write
    split
    · next hak =>
      split
      · simp only [Memory.wfFrom, Bool.and_eq_true, decide_eq_true_eq]; exact hm
      · next hv =>
        simp only [Memory.wfFrom, Bool.and_eq_true, decide_eq_true_eq]
        exact ⟨⟨⟨h, ha⟩, hv⟩, ⟨⟨by omega, hm.1.1.2⟩, hm.1.2⟩, hm.2⟩
    · split
      · next hak =>
        subst hak
        split
        · exact Memory.wfFrom_mono (by omega) hm.2
        · next hv =>
          simp only [Memory.wfFrom, Bool.and_eq_true, decide_eq_true_eq]
          exact ⟨⟨⟨h, ha⟩, hv⟩, hm.2⟩
      · simp only [Memory.wfFrom, Bool.and_eq_true, decide_eq_true_eq]
        exact ⟨⟨hm.1.1, hm.1.2⟩, ih hm.2 (by omega)⟩

/-- Every write to a 32-bit address keeps the canonical form. -/
theorem Memory.wf_write {m : Memory} (hm : Memory.wf m = true) {a : Nat} (ha : a < 2 ^ 32) (v : Sys2Proof.Byte) :
    Memory.wf (Memory.write m a v) = true :=
  Memory.wfFrom_write hm (Nat.zero_le a) ha v

/-- A read after a write to the same address gives the byte written. -/
theorem Memory.read_write_same {m : Memory} (hm : Memory.wf m = true) (a : Nat) (v : Sys2Proof.Byte) :
    Memory.read (Memory.write m a v) a = v := by
  suffices h : ∀ lo, Memory.wfFrom lo m = true → Memory.read (Memory.write m a v) a = v from h 0 hm
  clear hm
  induction m with
  | nil =>
    intro lo _
    unfold Memory.write
    split
    · next hv => rw [hv]; rfl
    · simp [Memory.read]
  | cons c rest ih =>
    obtain ⟨k, w⟩ := c
    intro lo hm
    have hm' := hm
    simp only [Memory.wfFrom, Bool.and_eq_true, decide_eq_true_eq] at hm'
    unfold Memory.write
    split
    · next hak =>
      split
      · next hv =>
        have hne : a ≠ k := by omega
        simp only [Memory.read, if_neg hne]
        rw [hv]
        exact Memory.read_of_lt hm'.2 (by omega)
      · simp [Memory.read]
    · split
      · next hak =>
        subst hak
        split
        · next hv => rw [hv]; exact Memory.read_of_lt hm'.2 (by omega)
        · simp [Memory.read]
      · next hne =>
        simp only [Memory.read, if_neg hne]
        exact ih _ hm'.2

/-- Filling a range of 32-bit addresses keeps the canonical form. -/
theorem Memory.wf_fill (n a : Nat) (bs : List Sys2Proof.Byte) {m : Memory} (hm : Memory.wf m = true)
    (h : a + n ≤ 2 ^ 32) : Memory.wf (Memory.fill n a bs m) = true := by
  induction n generalizing a bs m with
  | zero => exact hm
  | succ n ih => exact ih (a + 1) bs.tail (Memory.wf_write hm (by omega) _) (by omega)

/-- Filling a range leaves every address outside it alone. -/
theorem Memory.read_fill_of_outside (n a : Nat) (bs : List Sys2Proof.Byte) (m : Memory) (b : Nat)
    (h : b < a ∨ a + n ≤ b) : Memory.read (Memory.fill n a bs m) b = Memory.read m b := by
  induction n generalizing a bs m with
  | zero => rfl
  | succ n ih =>
    simp only [Memory.fill]
    rw [ih (a + 1) bs.tail _ (by omega), Memory.read_write_of_ne _ _ _ _ (by omega)]

end Sys2Proof.Machine
end

