-- ==== Sys2Proof/Laws/State.lean ====
section
/-! SUPPORT. One lemma per field for each named update of the state, so that no proof unfolds an update. -/

namespace Sys2Proof.Machine

@[simp] theorem State.setFlags_params (s : State) (fs : List Flag) : (s.setFlags fs).params = s.params := rfl
@[simp] theorem State.setFlags_x0 (s : State) (fs : List Flag) : (s.setFlags fs).x0 = s.x0 := rfl
@[simp] theorem State.setFlags_x1 (s : State) (fs : List Flag) : (s.setFlags fs).x1 = s.x1 := rfl
@[simp] theorem State.setFlags_x2 (s : State) (fs : List Flag) : (s.setFlags fs).x2 = s.x2 := rfl
@[simp] theorem State.setFlags_x3 (s : State) (fs : List Flag) : (s.setFlags fs).x3 = s.x3 := rfl
@[simp] theorem State.setFlags_pr (s : State) (fs : List Flag) : (s.setFlags fs).pr = s.pr := rfl
@[simp] theorem State.setFlags_ts (s : State) (fs : List Flag) : (s.setFlags fs).ts = s.ts := rfl
@[simp] theorem State.setFlags_cs (s : State) (fs : List Flag) : (s.setFlags fs).cs = s.cs := rfl
@[simp] theorem State.setFlags_status (s : State) (fs : List Flag) : (s.setFlags fs).status = statusOf fs := rfl
@[simp] theorem State.setFlags_run (s : State) (fs : List Flag) : (s.setFlags fs).run = s.run := rfl
@[simp] theorem State.setFlags_booted (s : State) (fs : List Flag) : (s.setFlags fs).booted = s.booted := rfl
@[simp] theorem State.setFlags_msp (s : State) (fs : List Flag) : (s.setFlags fs).msp = s.msp := rfl
@[simp] theorem State.setFlags_psp (s : State) (fs : List Flag) : (s.setFlags fs).psp = s.psp := rfl
@[simp] theorem State.setFlags_mem (s : State) (fs : List Flag) : (s.setFlags fs).mem = s.mem := rfl
@[simp] theorem State.setFlags_clk (s : State) (fs : List Flag) : (s.setFlags fs).clk = s.clk := rfl
@[simp] theorem State.setFlags_rtc (s : State) (fs : List Flag) : (s.setFlags fs).rtc = s.rtc := rfl
@[simp] theorem State.setFlags_frame (s : State) (fs : List Flag) : (s.setFlags fs).frame = s.frame := rfl
@[simp] theorem State.setFlags_inflight (s : State) (fs : List Flag) : (s.setFlags fs).inflight = s.inflight := rfl
@[simp] theorem State.setFlags_tickHang (s : State) (fs : List Flag) : (s.setFlags fs).tickHang = s.tickHang := rfl
@[simp] theorem State.setFlags_host (s : State) (fs : List Flag) : (s.setFlags fs).host = s.host := rfl
@[simp] theorem State.setFlags_rdata (s : State) (fs : List Flag) : (s.setFlags fs).rdata = s.rdata := rfl
@[simp] theorem State.setFlags_env (s : State) (fs : List Flag) : (s.setFlags fs).env = s.env := rfl
@[simp] theorem State.setFlags_envLoop (s : State) (fs : List Flag) : (s.setFlags fs).envLoop = s.envLoop := rfl
@[simp] theorem State.setFlags_hist (s : State) (fs : List Flag) : (s.setFlags fs).hist = s.hist := rfl
@[simp] theorem State.setFlags_draws (s : State) (fs : List Flag) : (s.setFlags fs).draws = s.draws := rfl

@[simp] theorem State.log_params (s : State) (e : BusEvent) : (s.log e).params = s.params := rfl
@[simp] theorem State.log_x0 (s : State) (e : BusEvent) : (s.log e).x0 = s.x0 := rfl
@[simp] theorem State.log_x1 (s : State) (e : BusEvent) : (s.log e).x1 = s.x1 := rfl
@[simp] theorem State.log_x2 (s : State) (e : BusEvent) : (s.log e).x2 = s.x2 := rfl
@[simp] theorem State.log_x3 (s : State) (e : BusEvent) : (s.log e).x3 = s.x3 := rfl
@[simp] theorem State.log_pr (s : State) (e : BusEvent) : (s.log e).pr = s.pr := rfl
@[simp] theorem State.log_ts (s : State) (e : BusEvent) : (s.log e).ts = s.ts := rfl
@[simp] theorem State.log_cs (s : State) (e : BusEvent) : (s.log e).cs = s.cs := rfl
@[simp] theorem State.log_status (s : State) (e : BusEvent) : (s.log e).status = s.status := rfl
@[simp] theorem State.log_run (s : State) (e : BusEvent) : (s.log e).run = s.run := rfl
@[simp] theorem State.log_booted (s : State) (e : BusEvent) : (s.log e).booted = s.booted := rfl
@[simp] theorem State.log_msp (s : State) (e : BusEvent) : (s.log e).msp = s.msp := rfl
@[simp] theorem State.log_psp (s : State) (e : BusEvent) : (s.log e).psp = s.psp := rfl
@[simp] theorem State.log_mem (s : State) (e : BusEvent) : (s.log e).mem = s.mem := rfl
@[simp] theorem State.log_clk (s : State) (e : BusEvent) : (s.log e).clk = s.clk := rfl
@[simp] theorem State.log_rtc (s : State) (e : BusEvent) : (s.log e).rtc = s.rtc := rfl
@[simp] theorem State.log_frame (s : State) (e : BusEvent) : (s.log e).frame = s.frame := rfl
@[simp] theorem State.log_inflight (s : State) (e : BusEvent) : (s.log e).inflight = s.inflight := rfl
@[simp] theorem State.log_tickHang (s : State) (e : BusEvent) : (s.log e).tickHang = s.tickHang := rfl
@[simp] theorem State.log_host (s : State) (e : BusEvent) : (s.log e).host = s.host := rfl
@[simp] theorem State.log_rdata (s : State) (e : BusEvent) : (s.log e).rdata = s.rdata := rfl
@[simp] theorem State.log_env (s : State) (e : BusEvent) : (s.log e).env = s.env := rfl
@[simp] theorem State.log_envLoop (s : State) (e : BusEvent) : (s.log e).envLoop = s.envLoop := rfl
@[simp] theorem State.log_hist (s : State) (e : BusEvent) : (s.log e).hist = e :: s.hist := rfl
@[simp] theorem State.log_draws (s : State) (e : BusEvent) : (s.log e).draws = s.draws := rfl

@[simp] theorem State.putFed_params (s : State) (f : Fed) : (s.putFed f).params = s.params := rfl
@[simp] theorem State.putFed_x0 (s : State) (f : Fed) : (s.putFed f).x0 = s.x0 := rfl
@[simp] theorem State.putFed_x1 (s : State) (f : Fed) : (s.putFed f).x1 = s.x1 := rfl
@[simp] theorem State.putFed_x2 (s : State) (f : Fed) : (s.putFed f).x2 = s.x2 := rfl
@[simp] theorem State.putFed_x3 (s : State) (f : Fed) : (s.putFed f).x3 = s.x3 := rfl
@[simp] theorem State.putFed_pr (s : State) (f : Fed) : (s.putFed f).pr = s.pr := rfl
@[simp] theorem State.putFed_ts (s : State) (f : Fed) : (s.putFed f).ts = s.ts := rfl
@[simp] theorem State.putFed_cs (s : State) (f : Fed) : (s.putFed f).cs = s.cs := rfl
@[simp] theorem State.putFed_status (s : State) (f : Fed) : (s.putFed f).status = s.status := rfl
@[simp] theorem State.putFed_run (s : State) (f : Fed) : (s.putFed f).run = s.run := rfl
@[simp] theorem State.putFed_booted (s : State) (f : Fed) : (s.putFed f).booted = s.booted := rfl
@[simp] theorem State.putFed_msp (s : State) (f : Fed) : (s.putFed f).msp = s.msp := rfl
@[simp] theorem State.putFed_psp (s : State) (f : Fed) : (s.putFed f).psp = s.psp := rfl
@[simp] theorem State.putFed_mem (s : State) (f : Fed) : (s.putFed f).mem = s.mem := rfl
@[simp] theorem State.putFed_clk (s : State) (f : Fed) : (s.putFed f).clk = f.1 := rfl
@[simp] theorem State.putFed_rtc (s : State) (f : Fed) : (s.putFed f).rtc = s.rtc := rfl
@[simp] theorem State.putFed_frame (s : State) (f : Fed) : (s.putFed f).frame = s.frame := rfl
@[simp] theorem State.putFed_inflight (s : State) (f : Fed) : (s.putFed f).inflight = s.inflight := rfl
@[simp] theorem State.putFed_tickHang (s : State) (f : Fed) : (s.putFed f).tickHang = s.tickHang := rfl
@[simp] theorem State.putFed_host (s : State) (f : Fed) : (s.putFed f).host = s.host := rfl
@[simp] theorem State.putFed_rdata (s : State) (f : Fed) : (s.putFed f).rdata = s.rdata := rfl
@[simp] theorem State.putFed_env (s : State) (f : Fed) : (s.putFed f).env = s.env := rfl
@[simp] theorem State.putFed_envLoop (s : State) (f : Fed) : (s.putFed f).envLoop = s.envLoop := rfl
@[simp] theorem State.putFed_hist (s : State) (f : Fed) : (s.putFed f).hist = s.hist := rfl
@[simp] theorem State.putFed_draws (s : State) (f : Fed) : (s.putFed f).draws = f.2 := rfl

@[simp] theorem State.captured_params (s : State) (c : Capture) : (s.captured c).params = s.params := rfl
@[simp] theorem State.captured_x0 (s : State) (c : Capture) : (s.captured c).x0 = s.x0 := rfl
@[simp] theorem State.captured_x1 (s : State) (c : Capture) : (s.captured c).x1 = s.x1 := rfl
@[simp] theorem State.captured_x2 (s : State) (c : Capture) : (s.captured c).x2 = s.x2 := rfl
@[simp] theorem State.captured_x3 (s : State) (c : Capture) : (s.captured c).x3 = s.x3 := rfl
@[simp] theorem State.captured_pr (s : State) (c : Capture) : (s.captured c).pr = s.pr := rfl
@[simp] theorem State.captured_ts (s : State) (c : Capture) : (s.captured c).ts = c.decodeCT := rfl
@[simp] theorem State.captured_cs (s : State) (c : Capture) : (s.captured c).cs = c := rfl
@[simp] theorem State.captured_status (s : State) (c : Capture) : (s.captured c).status = s.status := rfl
@[simp] theorem State.captured_run (s : State) (c : Capture) : (s.captured c).run = s.run := rfl
@[simp] theorem State.captured_booted (s : State) (c : Capture) : (s.captured c).booted = s.booted := rfl
@[simp] theorem State.captured_msp (s : State) (c : Capture) : (s.captured c).msp = s.msp := rfl
@[simp] theorem State.captured_psp (s : State) (c : Capture) : (s.captured c).psp = s.psp := rfl
@[simp] theorem State.captured_mem (s : State) (c : Capture) : (s.captured c).mem = s.mem := rfl
@[simp] theorem State.captured_clk (s : State) (c : Capture) : (s.captured c).clk = s.clk := rfl
@[simp] theorem State.captured_rtc (s : State) (c : Capture) : (s.captured c).rtc = s.rtc := rfl
@[simp] theorem State.captured_frame (s : State) (c : Capture) : (s.captured c).frame = s.frame := rfl
@[simp] theorem State.captured_inflight (s : State) (c : Capture) : (s.captured c).inflight = s.inflight := rfl
@[simp] theorem State.captured_tickHang (s : State) (c : Capture) : (s.captured c).tickHang = s.tickHang := rfl
@[simp] theorem State.captured_host (s : State) (c : Capture) : (s.captured c).host = s.host := rfl
@[simp] theorem State.captured_rdata (s : State) (c : Capture) : (s.captured c).rdata = s.rdata := rfl
@[simp] theorem State.captured_env (s : State) (c : Capture) : (s.captured c).env = s.env := rfl
@[simp] theorem State.captured_envLoop (s : State) (c : Capture) : (s.captured c).envLoop = s.envLoop := rfl
@[simp] theorem State.captured_hist (s : State) (c : Capture) : (s.captured c).hist = s.hist := rfl
@[simp] theorem State.captured_draws (s : State) (c : Capture) : (s.captured c).draws = s.draws := rfl

@[simp] theorem State.dropSlot_params (s : State) : s.dropSlot.params = s.params := by
  unfold State.dropSlot; split <;> rfl
@[simp] theorem State.dropSlot_x0 (s : State) : s.dropSlot.x0 = s.x0 := by
  unfold State.dropSlot; split <;> rfl
@[simp] theorem State.dropSlot_x1 (s : State) : s.dropSlot.x1 = s.x1 := by
  unfold State.dropSlot; split <;> rfl
@[simp] theorem State.dropSlot_x2 (s : State) : s.dropSlot.x2 = s.x2 := by
  unfold State.dropSlot; split <;> rfl
@[simp] theorem State.dropSlot_x3 (s : State) : s.dropSlot.x3 = s.x3 := by
  unfold State.dropSlot; split <;> rfl
@[simp] theorem State.dropSlot_pr (s : State) : s.dropSlot.pr = s.pr := by
  unfold State.dropSlot; split <;> rfl
@[simp] theorem State.dropSlot_ts (s : State) : s.dropSlot.ts = s.ts := by
  unfold State.dropSlot; split <;> rfl
@[simp] theorem State.dropSlot_cs (s : State) : s.dropSlot.cs = s.cs := by
  unfold State.dropSlot; split <;> rfl
@[simp] theorem State.dropSlot_status (s : State) : s.dropSlot.status = s.status := by
  unfold State.dropSlot; split <;> rfl
@[simp] theorem State.dropSlot_run (s : State) : s.dropSlot.run = s.run := by
  unfold State.dropSlot; split <;> rfl
@[simp] theorem State.dropSlot_booted (s : State) : s.dropSlot.booted = s.booted := by
  unfold State.dropSlot; split <;> rfl
@[simp] theorem State.dropSlot_msp (s : State) : s.dropSlot.msp = s.msp := by
  unfold State.dropSlot; split <;> rfl
@[simp] theorem State.dropSlot_psp (s : State) : s.dropSlot.psp = s.psp := by
  unfold State.dropSlot; split <;> rfl
@[simp] theorem State.dropSlot_mem (s : State) : s.dropSlot.mem = s.mem := by
  unfold State.dropSlot; split <;> rfl
@[simp] theorem State.dropSlot_clk (s : State) : s.dropSlot.clk = s.clk := by
  unfold State.dropSlot; split <;> rfl
@[simp] theorem State.dropSlot_rtc (s : State) : s.dropSlot.rtc = s.rtc := by
  unfold State.dropSlot; split <;> rfl
@[simp] theorem State.dropSlot_frame (s : State) : s.dropSlot.frame = s.frame := by
  unfold State.dropSlot; split <;> rfl
@[simp] theorem State.dropSlot_inflight (s : State) : s.dropSlot.inflight = s.inflight := by
  unfold State.dropSlot; split <;> rfl
@[simp] theorem State.dropSlot_tickHang (s : State) : s.dropSlot.tickHang = s.tickHang := by
  unfold State.dropSlot; split <;> rfl
@[simp] theorem State.dropSlot_host (s : State) : s.dropSlot.host = s.host := by
  unfold State.dropSlot; split <;> rfl
@[simp] theorem State.dropSlot_rdata (s : State) : s.dropSlot.rdata = s.rdata := by
  unfold State.dropSlot; split <;> rfl
@[simp] theorem State.dropSlot_envLoop (s : State) : s.dropSlot.envLoop = s.envLoop := by
  unfold State.dropSlot; split <;> rfl
@[simp] theorem State.dropSlot_hist (s : State) : s.dropSlot.hist = s.hist := by
  unfold State.dropSlot; split <;> rfl
@[simp] theorem State.dropSlot_draws (s : State) : s.dropSlot.draws = s.draws := by
  unfold State.dropSlot; split <;> rfl

/-- The refused word's whole effect (R108). -/
theorem State.illegal_eq (s : State) : s.illegal = { s with status := 0x080#32 } := rfl

end Sys2Proof.Machine
end

