-- ==== Sys2Proof/Laws/Ops.lean ====
section
/-! SUPPORT. For each shared operation, once, everything it can do. -/

namespace Sys2Proof.Machine

open Sys2Proof

/-! ### The feed machinery -/

/-- With nothing pending and `feed` Idle an intervening transaction has no part in the feed machinery. -/
@[simp] theorem ClockRegs.intervene_idle {c : ClockRegs} {k : Nat} (hf : c.feed = .idle) (h : c.anyPend = false) :
    c.intervene k = (c, k) := by
  simp [ClockRegs.intervene, hf, h]

/-- While `feed` is Armed an intervening transaction voids the pair (R43). -/
@[simp] theorem ClockRegs.intervene_armed {c : ClockRegs} {k : Nat} (hf : c.feed = .armed) :
    c.intervene k = (c.discard, k) := by
  simp [ClockRegs.intervene, hf]

/-- The three things an intervening transaction can do to the feed machinery (R43, R44). -/
theorem ClockRegs.intervene_cases (c : ClockRegs) (k : Nat) :
    (c.feed = .armed ∧ c.intervene k = (c.discard, k)) ∨
    (c.feed = .idle ∧ c.anyPend = true ∧ c.intervene k = (c.unsettle k, k + 2)) ∨
    (c.feed = .idle ∧ c.anyPend = false ∧ c.intervene k = (c, k)) := by
  cases hf : c.feed <;> cases hp : c.anyPend <;> simp [ClockRegs.intervene, hf, hp]

/-- What no intervening transaction touches: the live halves, the divider and the selector. -/
theorem ClockRegs.intervene_live (c : ClockRegs) (k : Nat) :
    (c.intervene k).1.pllconLive = c.pllconLive ∧ (c.intervene k).1.pllcfgLive = c.pllcfgLive ∧
    (c.intervene k).1.cclkcfg = c.cclkcfg ∧ (c.intervene k).1.clksrcsel = c.clksrcsel := by
  obtain ⟨-, h⟩ | ⟨-, -, h⟩ | ⟨-, -, h⟩ := c.intervene_cases k <;> rw [h] <;>
    simp [ClockRegs.discard, ClockRegs.unsettle]

@[simp] theorem ClockRegs.anyPend_of_none {c : ClockRegs} (h1 : c.pllconPend = none) (h2 : c.pllcfgPend = none) :
    c.anyPend = false := by
  simp [ClockRegs.anyPend, h1, h2]

/-! ### Bus transactions -/

/-- A register with a readable word: the read returns it and changes no state. -/
theorem State.readValue_some {s : State} {r : RegId} {v : Word} (h : readView s.clk s.rtc r = some v) :
    s.readValue r = (v, s) := by
  simp [State.readValue, h]

/-- A register without one: the read returns the next free word. -/
theorem State.readValue_none {s : State} {r : RegId} (h : readView s.clk s.rtc r = none) :
    s.readValue r = (Config.freeWord s.draws, { s with draws := s.draws + 1 }) := by
  simp [State.readValue, h]

/-- A transaction changes only the PLL and clock registers, the calendar registers, the history and the draw index. -/
structure SameButBus (s t : State) : Prop where
  eq : t = { s with clk := t.clk, rtc := t.rtc, hist := t.hist, draws := t.draws }

theorem SameButBus.refl (s : State) : SameButBus s s := ⟨rfl⟩

theorem SameButBus.trans {s t u : State} (h1 : SameButBus s t) (h2 : SameButBus t u) : SameButBus s u := by
  constructor
  rw [h2.eq]
  conv_lhs => rw [h1.eq]

theorem State.intervene_frame (s : State) : SameButBus s s.intervene := ⟨rfl⟩

theorem State.readValue_frame (r : RegId) (s : State) : SameButBus s (s.readValue r).2 := by
  unfold State.readValue
  split <;> exact ⟨rfl⟩

/-- The frame of a BusRead (R75: no read has a side effect on a register value). -/
theorem State.busRead_frame (who : Master) (r : RegId) (s : State) : SameButBus s (s.busRead who r).2 :=
  (s.intervene_frame.trans (s.intervene.readValue_frame r)).trans ⟨rfl⟩

theorem State.busRead_rtc (who : Master) (r : RegId) (s : State) : (s.busRead who r).2.rtc = s.rtc := by
  simp only [State.busRead, State.log_rtc, State.readValue]
  split <;> rfl

theorem State.busRead_clk (who : Master) (r : RegId) (s : State) :
    (s.busRead who r).2.clk = (s.clk.intervene s.draws).1 := by
  simp only [State.busRead, State.log_clk, State.readValue]
  split <;> rfl

theorem State.busRead_hist (who : Master) (r : RegId) (s : State) :
    (s.busRead who r).2.hist = .read who r (s.busRead who r).1 :: s.hist := by
  simp only [State.busRead, State.log_hist, State.readValue]
  split <;> rfl

/-- The word a read returns, for a register that has one: the live halves, the counters and the other registers are not
touched by the read's own part in the feed machinery. -/
theorem State.busRead_value {who : Master} {r : RegId} {s : State} {v : Word}
    (h : readView s.clk s.rtc r = some v) : (s.busRead who r).1 = v := by
  have hl := s.clk.intervene_live s.draws
  have hv : readView s.intervene.clk s.intervene.rtc r = some v := by
    rw [← h]
    simp only [State.intervene, State.putFed_clk, State.putFed_rtc]
    cases r <;> simp [readView, hl]
  simp [State.busRead, State.readValue_some hv]

/-- The frame of a BusWrite. -/
theorem State.busWrite_frame (who : Master) (r : RegId) (v : Word) (s : State) :
    SameButBus s (s.busWrite who r v) := by
  unfold State.busWrite
  cases r <;> exact ⟨rfl⟩

@[simp] theorem State.busWrite_hist (who : Master) (r : RegId) (v : Word) (s : State) :
    (s.busWrite who r v).hist = .write who r v :: s.hist := by
  unfold State.busWrite
  cases r <;> rfl

/-! ### The other agents -/

@[simp] theorem State.agentSteps_nil (s : State) : s.agentSteps [] = s := rfl

theorem State.agentSteps_cons (e : EnvEvent) (sl : Slot) (s : State) :
    s.agentSteps (e :: sl) = (s.agentStep e).agentSteps sl := rfl

theorem State.foreignOp_frame (op : BusOp) (s : State) : SameButBus s (s.foreignOp op) := by
  cases op with
  | read r => exact s.busRead_frame .foreign r
  | write r v => exact s.busWrite_frame .foreign r v

/-- A foreign master's transaction adds one entry to the history, the transaction itself. -/
theorem State.foreignOp_hist (op : BusOp) (s : State) :
    ∃ e, (s.foreignOp op).hist = e :: s.hist ∧ e.request = some (.foreign, op) := by
  cases op with
  | read r => exact ⟨_, s.busRead_hist .foreign r, rfl⟩
  | write r v => exact ⟨_, s.busWrite_hist .foreign r v, rfl⟩

theorem State.watchdog_frame (wd : WatchdogFeed) (s : State) : SameButBus s (s.watchdog wd) := by
  unfold State.watchdog
  induction wd.ops generalizing s with
  | nil => exact SameButBus.refl s
  | cons o wd ih => exact (s.foreignOp_frame _).trans (ih _)

/-- Everything a hung handler's further run can do (R214). -/
theorem State.tickAgain_cases (wd : WatchdogFeed) (s : State) :
    (s.run = .running ∧ s.tickAgain wd = s.watchdog wd) ∨ (s.run ≠ .running ∧ s.tickAgain wd = s) := by
  by_cases h : s.run = .running <;> simp [State.tickAgain, h]

/-- The frame of a hung handler's further run. -/
theorem State.tickAgain_frame (wd : WatchdogFeed) (s : State) : SameButBus s (s.tickAgain wd) := by
  obtain ⟨-, h⟩ | ⟨-, h⟩ := s.tickAgain_cases wd <;> rw [h]
  · exact s.watchdog_frame wd
  · exact SameButBus.refl s

/-- A step of the calendar agent changes only the counters, `TICKIF` and the draw index (R50). -/
structure SameButCalendar (s t : State) : Prop where
  eq : t = { s with rtc := { s.rtc with time := t.rtc.time, tickif := t.rtc.tickif }, draws := t.draws }

theorem SameButCalendar.refl (s : State) : SameButCalendar s s := ⟨rfl⟩

theorem SameButCalendar.trans {s t u : State} (h1 : SameButCalendar s t) (h2 : SameButCalendar t u) :
    SameButCalendar s u := by
  constructor
  rw [h2.eq]
  conv_lhs => rw [h1.eq]

theorem State.calendar_agentStep {e : EnvEvent} (h : e.isCalendar = true) (s : State) :
    SameButCalendar s (s.agentStep e) := by
  cases e with
  | rtcStep t tick =>
    simp only [State.agentStep, State.calendarStep]
    split <;> exact ⟨rfl⟩
  | rtcSecond =>
    simp only [State.agentStep, State.calendarSecond, State.calendarStep]
    split
    · split <;> exact ⟨rfl⟩
    · exact ⟨rfl⟩
  | foreign _ | tick _ _ | fault _ | halt | reset _ => simp [EnvEvent.isCalendar] at h

/-- While `CLKEN` = 0 the calendar agent does nothing at all (R50). -/
theorem State.calendar_stopped {e : EnvEvent} (h : e.isCalendar = true) {s : State} (hc : s.rtc.clken = false) :
    s.agentStep e = s := by
  cases e with
  | rtcStep t tick => simp [State.agentStep, State.calendarStep, hc]
  | rtcSecond => simp [State.agentStep, State.calendarSecond, hc]
  | foreign _ | tick _ _ | fault _ | halt | reset _ => simp [EnvEvent.isCalendar] at h

theorem State.calendar_agentSteps {sl : Slot} (h : ∀ e ∈ sl, e.isCalendar = true) (s : State) :
    SameButCalendar s (s.agentSteps sl) := by
  induction sl generalizing s with
  | nil => exact SameButCalendar.refl s
  | cons e sl ih =>
    exact (State.calendar_agentStep (h e (by simp)) s).trans (ih (fun e he => h e (by simp [he])) _)

theorem State.calendar_stopped_steps {sl : Slot} (h : ∀ e ∈ sl, e.isCalendar = true) {s : State}
    (hc : s.rtc.clken = false) : s.agentSteps sl = s := by
  induction sl with
  | nil => rfl
  | cons e sl ih =>
    rw [State.agentSteps_cons, State.calendar_stopped (h e (by simp)) hc]
    exact ih (fun e he => h e (by simp [he]))

/-! ### Sequencing -/

@[simp] theorem Run.andThen_ok {α β : Type} (a : α) (s : State) (k : α → State → Run β) :
    (Run.ok a s).andThen k = k a s := rfl

@[simp] theorem Run.andThen_cut {α β : Type} (s : State) (k : α → State → Run β) :
    (Run.cut s : Run α).andThen k = .cut s := rfl

@[simp] theorem Run.andThen_stop {α β : Type} (f : Fault) (k : α → State → Run β) :
    (Run.stop f : Run α).andThen k = .stop f := rfl

@[simp] theorem Run.outcome_ok (s : State) : (Run.ok () s).outcome = .next s := rfl

@[simp] theorem Run.outcome_cut (s : State) : (Run.cut s).outcome = .next s := rfl

theorem State.nextSlot_quiet {s : State} (h : s.quiet) : s.nextSlot = [] := by
  simp [State.nextSlot, h.1, h.2]

theorem State.dropSlot_quiet {s : State} (h : s.quiet) : s.dropSlot = s := by
  obtain ⟨h1, h2⟩ := h
  cases s
  simp_all [State.dropSlot]

/-- Everything `pass` can do: the slot's steps happen, and the command goes on exactly when RUN is still Running, no tick
handler hangs and no reset has come. -/
theorem pass_cases (s : State) :
    (pass s = .ok () (s.dropSlot.agentSteps s.nextSlot) ∧ (s.dropSlot.agentSteps s.nextSlot).run = .running ∧
      (s.dropSlot.agentSteps s.nextSlot).tickHang = none ∧ s.nextSlot.any EnvEvent.isReset = false) ∨
    (pass s = .cut (s.dropSlot.agentSteps s.nextSlot) ∧
      ((s.dropSlot.agentSteps s.nextSlot).run ≠ .running ∨ (s.dropSlot.agentSteps s.nextSlot).tickHang ≠ none ∨
        s.nextSlot.any EnvEvent.isReset = true)) := by
  by_cases h : ((s.dropSlot.agentSteps s.nextSlot).run = .running && (s.dropSlot.agentSteps s.nextSlot).tickHang.isNone
      && !s.nextSlot.any EnvEvent.isReset) = true
  · left
    simp only [Bool.and_eq_true, decide_eq_true_eq, Bool.not_eq_true', Option.isNone_iff_eq_none] at h
    exact ⟨by simp [pass, h], h.1.1, h.1.2, h.2⟩
  · right
    refine ⟨by unfold pass; simp only [if_neg h], ?_⟩
    by_contra hn
    simp only [not_or, not_not, Bool.not_eq_true] at hn
    exact h (by simp [hn])

/-- When no other agent steps, nothing happens before a transaction. -/
theorem pass_quiet {s : State} (hq : s.quiet) (hr : s.run = .running) (ht : s.tickHang = none) : pass s = .ok () s := by
  simp [pass, State.nextSlot_quiet hq, State.dropSlot_quiet hq, hr, ht]

theorem txRead_quiet {s : State} (hq : s.quiet) (hr : s.run = .running) (ht : s.tickHang = none) (r : RegId) :
    txRead r s = .ok (s.busRead .block r).1 (s.busRead .block r).2 := by
  simp [txRead, pass_quiet hq hr ht]

theorem txWrite_quiet {s : State} (hq : s.quiet) (hr : s.run = .running) (ht : s.tickHang = none) (r : RegId)
    (v : Word) : txWrite r v s = .ok () (s.busWrite .block r v) := by
  simp [txWrite, pass_quiet hq hr ht]

@[simp] theorem txWrites_nil (s : State) : txWrites [] s = .ok () s := rfl

@[simp] theorem txWrites_cons (r : RegId) (v : Word) (rest : List (RegId × Word)) (s : State) :
    txWrites ((r, v) :: rest) s = (txWrite r v s).andThen fun _ t => txWrites rest t := rfl

theorem SameButBus.quiet {s t : State} (h : SameButBus s t) (hq : s.quiet) : t.quiet := by
  rw [h.eq]; exact hq

theorem SameButBus.run {s t : State} (h : SameButBus s t) : t.run = s.run := by rw [h.eq]

theorem SameButBus.tickHang {s t : State} (h : SameButBus s t) : t.tickHang = s.tickHang := by rw [h.eq]

/-- When no other agent steps, a list of writes is made one after the other. -/
theorem txWrites_quiet {s : State} (hq : s.quiet) (hr : s.run = .running) (ht : s.tickHang = none)
    (ws : List (RegId × Word)) :
    txWrites ws s = .ok () (ws.foldl (fun t w => t.busWrite .block w.1 w.2) s) := by
  induction ws generalizing s with
  | nil => rfl
  | cons w ws ih =>
    have hf := s.busWrite_frame .block w.1 w.2
    obtain ⟨r, v⟩ := w
    rw [txWrites_cons, txWrite_quiet hq hr ht, Run.andThen_ok, List.foldl_cons]
    exact ih (hf.quiet hq) (hf.run.trans hr) (hf.tickHang.trans ht)

/-- Under `NoForeign` a command goes on past a slot of calendar steps, which change nothing but the counters, `TICKIF` and
the draw index. -/
theorem pass_noForeign {k : Nat} {s : State} (h : s.noForeign (k + 1)) (hr : s.run = .running)
    (ht : s.tickHang = none) :
    pass s = .ok () (s.dropSlot.agentSteps s.nextSlot) ∧ (s.dropSlot.agentSteps s.nextSlot).noForeign k := by
  have hc : ∀ e ∈ s.nextSlot, EnvEvent.isCalendar e = true :=
    fun e he => h s.nextSlot (by simp [State.slotsAhead]) e he
  have hs := State.calendar_agentSteps hc s.dropSlot
  have hrun : (s.dropSlot.agentSteps s.nextSlot).run = .running := by rw [hs.eq]; simpa using hr
  have hhang : (s.dropSlot.agentSteps s.nextSlot).tickHang = none := by rw [hs.eq]; simpa using ht
  have hres : s.nextSlot.any EnvEvent.isReset = false := by
    simp only [List.any_eq_false]
    intro e he
    have := hc e he
    cases e <;> simp_all [EnvEvent.isCalendar, EnvEvent.isReset]
  refine ⟨by simp [pass, hrun, hhang, hres], ?_⟩
  have hslots : ∀ (n : Nat) (a b : State), a.env = b.env → a.envLoop = b.envLoop →
      a.slotsAhead n = b.slotsAhead n := by
    intro n
    induction n with
    | zero => intros; rfl
    | succ n ih =>
      intro a b h1 h2
      simp only [State.slotsAhead]
      rw [ih a.dropSlot b.dropSlot (by simp only [State.dropSlot, h1, h2]; split <;> rfl) (by simp [h2])]
      simp [State.nextSlot, h1, h2]
  intro sl hsl
  rw [hslots k _ s.dropSlot (by rw [hs.eq]) (by rw [hs.eq])] at hsl
  exact h sl (by simp [State.slotsAhead, hsl])

end Sys2Proof.Machine
end

