-- ==== Sys2Proof/Laws/Agents.lean ====
section
/-! SUPPORT. What a step of another agent can do, and what the tear-free read does when nothing disturbs it. -/

namespace Sys2Proof.Machine

open Sys2Proof

/-! ### Faults, the halt, the tick handler -/

/-- Everything a fault can do (R217, R221). -/
theorem State.takeFault_cases (f : Option Frame) (s : State) :
    (s.run = .running ∧
      s.takeFault f = { s with run := .faulted, frame := f, inflight := none, tickHang := none }) ∨
    (s.run ≠ .running ∧ s.takeFault f = s) := by
  by_cases h : s.run = .running <;> simp [State.takeFault, h]

/-- Everything the halt can do (R218, R221). -/
theorem State.halt_cases (s : State) :
    (s.run = .faulted ∧ s.halt = { s with run := .halted, frame := none }) ∨ (s.run ≠ .faulted ∧ s.halt = s) := by
  by_cases h : s.run = .faulted <;> simp [State.halt, h]

/-- The tick handler acknowledges and acts, or hangs, or is not dispatched (R214). -/
theorem State.tickHandler_cases (ack : Bool) (wd : WatchdogFeed) (s : State) :
    ((s.rtc.tickif = false ∨ s.params.tickEnabled = false) ∧ s.tickHandler ack wd = s) ∨
    (s.rtc.tickif = true ∧ s.params.tickEnabled = true ∧ ack = true ∧
      s.tickHandler ack wd = (s.busWrite .foreign .rtcilr 1#32).watchdog wd) ∨
    (s.rtc.tickif = true ∧ s.params.tickEnabled = true ∧ ack = false ∧
      s.tickHandler ack wd = { s.watchdog wd with tickHang := some wd }) := by
  cases h1 : s.rtc.tickif <;> cases h2 : s.params.tickEnabled <;> cases ack <;> simp [State.tickHandler, h1, h2]

/-- What every step of another agent but a reset keeps. -/
structure SameButAgents (s t : State) : Prop where
  eq : t = { s with clk := t.clk, rtc := t.rtc, hist := t.hist, draws := t.draws, run := t.run, frame := t.frame,
                    inflight := t.inflight, tickHang := t.tickHang }

theorem SameButAgents.refl (s : State) : SameButAgents s s := ⟨rfl⟩

theorem SameButAgents.trans {s t u : State} (h1 : SameButAgents s t) (h2 : SameButAgents t u) : SameButAgents s u := by
  constructor
  rw [h2.eq]
  conv_lhs => rw [h1.eq]

theorem SameButBus.agents {s t : State} (h : SameButBus s t) : SameButAgents s t := by
  constructor
  conv_lhs => rw [h.eq]
  rw [h.eq]

theorem SameButCalendar.agents {s t : State} (h : SameButCalendar s t) : SameButAgents s t := by
  constructor
  conv_lhs => rw [h.eq]
  rw [h.eq]

/-- The frame of a step of another agent that is no reset. -/
theorem State.agentStep_frame {e : EnvEvent} (h : e.isReset = false) (s : State) :
    SameButAgents s (s.agentStep e) := by
  cases e with
  | rtcStep t tick => exact (State.calendar_agentStep rfl s).agents
  | rtcSecond => exact (State.calendar_agentStep rfl s).agents
  | foreign op =>
    simp only [State.agentStep]
    split
    · exact (s.foreignOp_frame op).agents
    · exact .refl s
  | tick ack wd =>
    simp only [State.agentStep]
    split
    · obtain ⟨-, h⟩ | ⟨-, -, -, h⟩ | ⟨-, -, -, h⟩ := s.tickHandler_cases ack wd <;> rw [h]
      · exact .refl s
      · exact ((s.busWrite_frame _ _ _).trans (State.watchdog_frame wd _)).agents
      · exact (s.watchdog_frame wd).agents.trans ⟨rfl⟩
    · exact .refl s
  | fault f =>
    obtain ⟨-, h⟩ | ⟨-, h⟩ := s.takeFault_cases f <;> simp only [State.agentStep, h]
    · exact ⟨rfl⟩
    · exact .refl s
  | halt =>
    obtain ⟨-, h⟩ | ⟨-, h⟩ := s.halt_cases <;> simp only [State.agentStep, h]
    · exact ⟨rfl⟩
    · exact .refl s
  | reset u => simp [EnvEvent.isReset] at h

theorem State.agentSteps_frame {sl : Slot} (h : ∀ e ∈ sl, EnvEvent.isReset e = false) (s : State) :
    SameButAgents s (s.agentSteps sl) := by
  induction sl generalizing s with
  | nil => exact .refl s
  | cons e sl ih =>
    exact (State.agentStep_frame (h e (by simp)) s).trans (ih (fun e he => h e (by simp [he])) _)

/-- No step of another agent, a reset included, touches the parameter set, the host's accesses or the schedule. -/
theorem State.agentStep_keeps (e : EnvEvent) (s : State) :
    (s.agentStep e).params = s.params ∧ (s.agentStep e).host = s.host ∧ (s.agentStep e).env = s.env ∧
    (s.agentStep e).envLoop = s.envLoop ∧ (s.agentStep e).rdata = s.rdata := by
  cases h : e.isReset
  · rw [(State.agentStep_frame h s).eq]; exact ⟨rfl, rfl, rfl, rfl, rfl⟩
  · cases e <;> simp [EnvEvent.isReset] at h
    exact ⟨rfl, rfl, rfl, rfl, rfl⟩

theorem State.agentSteps_keeps (sl : Slot) (s : State) :
    (s.agentSteps sl).params = s.params ∧ (s.agentSteps sl).host = s.host ∧ (s.agentSteps sl).env = s.env ∧
    (s.agentSteps sl).envLoop = s.envLoop ∧ (s.agentSteps sl).rdata = s.rdata := by
  induction sl generalizing s with
  | nil => exact ⟨rfl, rfl, rfl, rfl, rfl⟩
  | cons e sl ih =>
    obtain ⟨a1, a2, a3, a4, a5⟩ := s.agentStep_keeps e
    obtain ⟨b1, b2, b3, b4, b5⟩ := ih (s.agentStep e)
    exact ⟨b1.trans a1, b2.trans a2, b3.trans a3, b4.trans a4, b5.trans a5⟩

/-- Everything taking a slot from the queue can do. -/
theorem State.dropSlot_cases (s : State) :
    (∃ rest, s.env = s.nextSlot :: rest ∧ s.dropSlot = { s with env := rest }) ∨
    (s.env = [] ∧ s.nextSlot = s.envLoop.headD [] ∧ s.dropSlot = { s with env := s.envLoop.tail }) := by
  cases h : s.env with
  | nil => right; simp [State.dropSlot, State.nextSlot, h]
  | cons sl rest => left; exact ⟨rest, by simp [State.nextSlot, h], by simp [State.dropSlot, h]⟩

/-- Where no reset is coming, the next slot holds none and none is coming after it. -/
theorem State.noReset_next {s : State} (h : s.noReset) :
    (∀ e ∈ s.nextSlot, EnvEvent.isReset e = false) ∧ s.dropSlot.noReset := by
  obtain ⟨h1, h2⟩ := h
  obtain ⟨rest, he, hd⟩ | ⟨-, hn, hd⟩ := s.dropSlot_cases
  · refine ⟨h1 _ (by rw [he]; exact List.mem_cons_self), ?_⟩
    rw [hd]
    exact ⟨fun sl hsl => h1 sl (by rw [he]; exact List.mem_cons_of_mem _ hsl), h2⟩
  · constructor
    · rw [hn]
      cases hl : s.envLoop with
      | nil => simp
      | cons sl rest => exact h2 sl (by rw [hl]; exact List.mem_cons_self)
    · rw [hd]
      exact ⟨fun sl hsl => h2 sl (List.mem_of_mem_tail hsl), h2⟩

/-! ### Reads that nothing disturbs -/

/-- With nothing pending, a transaction that is no PLLFEED write and no protected write only ends an open pair. -/
theorem State.intervene_feedQuiet {s : State} (h : s.feedQuiet) :
    s.intervene = { s with clk := { s.clk with feed := .idle } } := by
  obtain ⟨h1, h2⟩ := h
  have hc : s.clk.intervene s.draws = ({ s.clk with feed := .idle }, s.draws) := by
    cases hc : s.clk
    rw [hc] at h1 h2
    rename_i a b c d f g i j
    cases f <;> simp_all [ClockRegs.intervene, ClockRegs.discard, ClockRegs.anyPend]
  simp [State.intervene, State.putFed, hc]

/-- With nothing pending, a read of a register with a readable word returns it and only ends an open pair. -/
theorem State.busRead_feedQuiet {s : State} (h : s.feedQuiet) {who : Master} {r : RegId} {v : Word}
    (hv : readView s.clk s.rtc r = some v) :
    s.busRead who r = (v, { s with clk := { s.clk with feed := .idle }, hist := .read who r v :: s.hist }) := by
  have hn : readView s.intervene.clk s.intervene.rtc r = some v := by
    rw [State.intervene_feedQuiet h]; rw [← hv]; cases r <;> rfl
  simp only [State.busRead, State.readValue_some hn]
  rw [State.intervene_feedQuiet h]
  rfl

/-- The same as a transaction of a command that nothing disturbs. -/
theorem txRead_feedQuiet {s : State} (hq : s.quiet) (hr : s.run = .running) (ht : s.tickHang = none)
    (h : s.feedQuiet) {r : RegId} {v : Word} (hv : readView s.clk s.rtc r = some v) :
    txRead r s = .ok v { s with clk := { s.clk with feed := .idle }, hist := .read .block r v :: s.hist } := by
  rw [txRead_quiet hq hr ht, State.busRead_feedQuiet h hv]

/-- A full read of a calendar that holds still, with nothing pending. -/
theorem fullRead_quiet {s : State} (hq : s.quiet) (hr : s.run = .running) (ht : s.tickHang = none) (h : s.feedQuiet) :
    fullRead s = .ok s.rtc.time.words
      { s with clk := { s.clk with feed := .idle }, hist := fullReadEvents s.rtc.time.words ++ s.hist } := by
  let c0 := s.rtc.time.ct0
  let c1 := s.rtc.time.ct1
  let t : State := { s with clk := { s.clk with feed := .idle }, hist := .read .block .ct0 c0 :: s.hist }
  let u : State := { t with hist := .read .block .ct1 c1 :: t.hist }
  have e0 : txRead .ct0 s = .ok c0 t := txRead_feedQuiet hq hr ht h rfl
  have e1 : txRead .ct1 t = .ok c1 u := txRead_feedQuiet (s := t) hq hr ht h rfl
  have e2 := txRead_feedQuiet (s := u) (r := .ct2) (v := s.rtc.time.ct2) hq hr ht h rfl
  simp only [fullRead, e0, e1, e2, Run.andThen_ok]
  rfl

/-- A round of the tear-free read of a calendar that holds still, with nothing pending. -/
theorem readRound_quiet {s : State} (hq : s.quiet) (hr : s.run = .running) (ht : s.tickHang = none)
    (h : s.feedQuiet) :
    readRound s = .ok (some s.rtc.time.words)
      { s with clk := { s.clk with feed := .idle },
               hist := fullReadEvents s.rtc.time.words ++ fullReadEvents s.rtc.time.words ++ s.hist } := by
  have e0 := fullRead_quiet hq hr ht h
  have e1 := fullRead_quiet
    (s := { s with clk := { s.clk with feed := .idle }, hist := fullReadEvents s.rtc.time.words ++ s.hist }) hq hr ht h
  simp only [readRound, e0, e1, Run.andThen_ok, if_true, List.append_assoc]

end Sys2Proof.Machine
end

