-- ==== Sys2Proof/Laws/Decode.lean ====
section
/-! SUPPORT. The fields of a command word, and what the decoder does for each opcode. -/

namespace Sys2Proof

theorem opcodeOf_append (a b : BitVec 8) (c : BitVec 16) : opcodeOf (a ++ b ++ c) = a := by
  apply BitVec.eq_of_getLsbD_eq
  intro i hi
  simp only [opcodeOf, BitVec.getLsbD_extractLsb', BitVec.getLsbD_append]
  grind

theorem regOf_append (a b : BitVec 8) (c : BitVec 16) : regOf (a ++ b ++ c) = b := by
  apply BitVec.eq_of_getLsbD_eq
  intro i hi
  simp only [regOf, BitVec.getLsbD_extractLsb', BitVec.getLsbD_append]
  grind

theorem immOf_append (a b : BitVec 8) (c : BitVec 16) : immOf (a ++ b ++ c) = c := by
  apply BitVec.eq_of_getLsbD_eq
  intro i hi
  simp only [immOf, BitVec.getLsbD_extractLsb', BitVec.getLsbD_append]
  grind

/-- A word is its three fields (R103). -/
theorem word_eq_fields (w : Word) : w = opcodeOf w ++ regOf w ++ immOf w := by
  apply BitVec.eq_of_getLsbD_eq
  intro i hi
  simp only [opcodeOf, regOf, immOf, BitVec.getLsbD_extractLsb', BitVec.getLsbD_append]
  grind

@[simp] theorem opcodeOf_encode (i : Instr) : opcodeOf (encode i) = i.opcode := opcodeOf_append _ _ _

@[simp] theorem regOf_encode (i : Instr) : regOf (encode i) = i.regField := regOf_append _ _ _

@[simp] theorem immOf_encode (i : Instr) : immOf (encode i) = i.immField := immOf_append _ _ _

/-- Every register's code names that register (R31). -/
@[simp] theorem RegId.ofCode_code (r : RegId) : RegId.ofCode r.code = some r := by cases r <;> decide

/-- A code names at most the register that has it (R31). -/
theorem RegId.code_of_ofCode {c : BitVec 8} {r : RegId} (h : RegId.ofCode c = some r) : r.code = c := by
  have := List.find?_some h
  simpa using this

theorem decode_regrd {w : Word} (h : opcodeOf w = 0x01#8) : decode w = formatR w .regrd := by
  unfold decode; rw [h]; rfl
theorem decode_regwr {w : Word} (h : opcodeOf w = 0x02#8) : decode w = formatR w .regwr := by
  unfold decode; rw [h]; rfl
theorem decode_feed {w : Word} (h : opcodeOf w = 0x03#8) : decode w = formatZ w .feed := by
  unfold decode; rw [h]; rfl
theorem decode_barrier {w : Word} (h : opcodeOf w = 0x04#8) : decode w = formatZ w .barrier := by
  unfold decode; rw [h]; rfl
theorem decode_clkdis {w : Word} (h : opcodeOf w = 0x05#8) : decode w = formatZ w .clkdis := by
  unfold decode; rw [h]; rfl
theorem decode_rtcset {w : Word} (h : opcodeOf w = 0x06#8) : decode w = formatZ w .rtcset := by
  unfold decode; rw [h]; rfl
theorem decode_boot {w : Word} (h : opcodeOf w = 0x07#8) : decode w = formatZ w .boot := by
  unfold decode; rw [h]; rfl
theorem decode_pllsrch {w : Word} (h : opcodeOf w = 0x10#8) : decode w = formatZ w .pllsrch := by
  unfold decode; rw [h]; rfl
theorem decode_pllchk {w : Word} (h : opcodeOf w = 0x11#8) : decode w = formatZ w .pllchk := by
  unfold decode; rw [h]; rfl
theorem decode_freqrb {w : Word} (h : opcodeOf w = 0x12#8) : decode w = formatZ w .freqrb := by
  unfold decode; rw [h]; rfl
theorem decode_rtcread {w : Word} (h : opcodeOf w = 0x20#8) : decode w = formatZ w .rtcread := by
  unfold decode; rw [h]; rfl
theorem decode_tsdef {w : Word} (h : opcodeOf w = 0x30#8) : decode w = formatZ w .tsdef := by
  unfold decode; rw [h]; rfl
theorem decode_rtcval {w : Word} (h : opcodeOf w = 0x31#8) : decode w = formatZ w .rtcval := by
  unfold decode; rw [h]; rfl
theorem decode_rtcinit {w : Word} (h : opcodeOf w = 0x32#8) : decode w = formatZ w .rtcinit := by
  unfold decode; rw [h]; rfl
theorem decode_setsec {w : Word} (h : opcodeOf w = 0x38#8) : decode w = formatI w .setsec := by
  unfold decode; rw [h]; rfl
theorem decode_setmin {w : Word} (h : opcodeOf w = 0x39#8) : decode w = formatI w .setmin := by
  unfold decode; rw [h]; rfl
theorem decode_sethour {w : Word} (h : opcodeOf w = 0x3A#8) : decode w = formatI w .sethour := by
  unfold decode; rw [h]; rfl
theorem decode_setdow {w : Word} (h : opcodeOf w = 0x3B#8) : decode w = formatI w .setdow := by
  unfold decode; rw [h]; rfl
theorem decode_setdom {w : Word} (h : opcodeOf w = 0x3C#8) : decode w = formatI w .setdom := by
  unfold decode; rw [h]; rfl
theorem decode_setmon {w : Word} (h : opcodeOf w = 0x3D#8) : decode w = formatI w .setmon := by
  unfold decode; rw [h]; rfl
theorem decode_setyear {w : Word} (h : opcodeOf w = 0x3E#8) : decode w = formatI w .setyear := by
  unfold decode; rw [h]; rfl
theorem decode_setdoy {w : Word} (h : opcodeOf w = 0x3F#8) : decode w = formatI w .setdoy := by
  unfold decode; rw [h]; rfl

end Sys2Proof
end

