-- ==== Sys2Proof/Laws/PerInstr.lean ====
section
/-! SUPPORT. One lemma per command about its word: the three fields it carries, and that the bits its row of R106 fixes are the
row's match value. -/

namespace Sys2Proof.Laws.WordFields

open Sys2Proof

/-- The fields of the command's word (R103), and its row's mask and match value (R106). -/
def Statement (i : Instr) : Prop :=
  opcodeOf (encode i) = i.opcode ∧ regOf (encode i) = i.regField ∧ immOf (encode i) = i.immField ∧
    encode i &&& i.mask = i.matchWord

/-- The fixed bits of a format R word. -/
theorem and_mask_formatR (o r : BitVec 8) : (o ++ r ++ 0#16) &&& 0xFF00FFFF#32 = (o ++ 0#24 : Word) := by
  apply BitVec.eq_of_getLsbD_eq
  intro i hi
  have h : (0xFF00FFFF#32 : Word) = 0xFF#8 ++ 0x00#8 ++ 0xFFFF#16 := rfl
  have h8 : (0xFF#8 : BitVec 8) = BitVec.allOnes 8 := rfl
  rw [h, h8]
  simp only [BitVec.getLsbD_and, BitVec.getLsbD_append, BitVec.getLsbD_zero, BitVec.getLsbD_allOnes]
  grind

/-- The fixed bits of a format I word. -/
theorem and_mask_formatI (o : BitVec 8) (v : BitVec 16) : (o ++ 0#8 ++ v) &&& 0xFFFF0000#32 = (o ++ 0#24 : Word) := by
  apply BitVec.eq_of_getLsbD_eq
  intro i hi
  have h : (0xFFFF0000#32 : Word) = BitVec.allOnes 16 ++ 0x0000#16 := rfl
  rw [h]
  simp only [BitVec.getLsbD_and, BitVec.getLsbD_append, BitVec.getLsbD_zero, BitVec.getLsbD_allOnes]
  grind

theorem of_mask (i : Instr) (h : encode i &&& i.mask = i.matchWord) : Statement i :=
  ⟨opcodeOf_encode i, regOf_encode i, immOf_encode i, h⟩

theorem regrd (r : RegId) : Statement (.regrd r) := of_mask _ (and_mask_formatR _ _)
theorem regwr (r : RegId) : Statement (.regwr r) := of_mask _ (and_mask_formatR _ _)
theorem feed : Statement .feed := of_mask _ rfl
theorem barrier : Statement .barrier := of_mask _ rfl
theorem clkdis : Statement .clkdis := of_mask _ rfl
theorem rtcset : Statement .rtcset := of_mask _ rfl
theorem boot : Statement .boot := of_mask _ rfl
theorem pllsrch : Statement .pllsrch := of_mask _ rfl
theorem pllchk : Statement .pllchk := of_mask _ rfl
theorem freqrb : Statement .freqrb := of_mask _ rfl
theorem rtcread : Statement .rtcread := of_mask _ rfl
theorem tsdef : Statement .tsdef := of_mask _ rfl
theorem rtcval : Statement .rtcval := of_mask _ rfl
theorem rtcinit : Statement .rtcinit := of_mask _ rfl
theorem setsec (v : BitVec 16) : Statement (.setsec v) := of_mask _ (and_mask_formatI _ _)
theorem setmin (v : BitVec 16) : Statement (.setmin v) := of_mask _ (and_mask_formatI _ _)
theorem sethour (v : BitVec 16) : Statement (.sethour v) := of_mask _ (and_mask_formatI _ _)
theorem setdow (v : BitVec 16) : Statement (.setdow v) := of_mask _ (and_mask_formatI _ _)
theorem setdom (v : BitVec 16) : Statement (.setdom v) := of_mask _ (and_mask_formatI _ _)
theorem setmon (v : BitVec 16) : Statement (.setmon v) := of_mask _ (and_mask_formatI _ _)
theorem setyear (v : BitVec 16) : Statement (.setyear v) := of_mask _ (and_mask_formatI _ _)
theorem setdoy (v : BitVec 16) : Statement (.setdoy v) := of_mask _ (and_mask_formatI _ _)

end Sys2Proof.Laws.WordFields
end

