-- ==== Sys2Proof/Tests/Slice0.lean ====
section
/-! SUPPORT. The model's own tests: the well-formedness smoke test, words written out from the encoding tables, single steps whose
expected results are the vectors of spec/95_test_vectors.md, and for each statement with hypotheses concrete states that meet
them. -/

namespace Sys2Proof.Tests

open Sys2Proof Sys2Proof.Machine

/-! ### Well-formedness: one ill-formed parameter set for each check -/

theorem test_wf_toy : Params.toy.wellFormed := by decide
theorem test_wf_widths_high : ¬ ({ Params.toy with mBits := 17 } : Params).widthsOk ∧ ¬ ({ Params.toy with mBits := 17 } : Params).wellFormed := by decide
theorem test_wf_widths_low : ¬ ({ Params.toy with dBits := 0 } : Params).widthsOk ∧ ¬ ({ Params.toy with dBits := 0 } : Params).wellFormed := by decide
theorem test_wf_lock_range : ¬ ({ Params.toy with fccoMinKhz := 60001 } : Params).lockRangeOk ∧ ¬ ({ Params.toy with fccoMinKhz := 60001 } : Params).wellFormed := by decide
theorem test_wf_sources : ¬ ({ Params.toy with fMainHz := 0 } : Params).sourcesOk ∧ ¬ ({ Params.toy with fMainHz := 0 } : Params).wellFormed := by decide
theorem test_wf_regions : ¬ ({ Params.toy with sEbss := 0x10000003#32 } : Params).regionsOk ∧ ¬ ({ Params.toy with sEbss := 0x10000003#32 } : Params).wellFormed := by decide
theorem test_wf_image : ¬ ({ Params.toy with sIdata := 0xFFFFFFFD#32 } : Params).imageOk ∧ ¬ ({ Params.toy with sIdata := 0xFFFFFFFD#32 } : Params).wellFormed := by decide
theorem test_wf_epoch : ¬ ({ Params.toy with epochDow := 7#3 } : Params).epochOk ∧ ¬ ({ Params.toy with epochDow := 7#3 } : Params).wellFormed := by decide
theorem test_wf_addresses : ¬ ({ Params.toy with regAddr := List.replicate 20 0#32 } : Params).addressesOk ∧ ¬ ({ Params.toy with regAddr := List.replicate 20 0#32 } : Params).wellFormed := by decide
theorem test_wf_vectors : ¬ ({ Params.toy with vectors := [0#32] } : Params).vectorsOk ∧ ¬ ({ Params.toy with vectors := [0#32] } : Params).wellFormed := by decide
theorem test_wf_reset_entry : ¬ ({ Params.toy with resetEntry := 3 } : Params).vectorsOk ∧ ¬ ({ Params.toy with resetEntry := 3 } : Params).wellFormed := by decide

/-! ### Decoding: `{opcode, reg, imm16}` of R103 written bit by bit, with the opcodes of R106 and the RegIds of R31 -/

theorem test_decode_regrd_pllstat : decode 0b00000001000000100000000000000000#32 = .ok (.regrd .pllstat) := by decide
theorem test_decode_regrd_other : decode 0b00000001111111110000000000000000#32 = .ok (.regrd .other) := by decide
theorem test_decode_regwr_doy : decode 0b00000010000110110000000000000000#32 = .ok (.regwr .doy) := by decide
theorem test_decode_feed : decode 0b00000011000000000000000000000000#32 = .ok .feed := by decide
theorem test_decode_barrier : decode 0b00000100000000000000000000000000#32 = .ok (.barrier) := by decide
theorem test_decode_clkdis : decode 0b00000101000000000000000000000000#32 = .ok (.clkdis) := by decide
theorem test_decode_rtcset : decode 0b00000110000000000000000000000000#32 = .ok (.rtcset) := by decide
theorem test_decode_boot : decode 0b00000111000000000000000000000000#32 = .ok (.boot) := by decide
theorem test_decode_pllsrch : decode 0b00010000000000000000000000000000#32 = .ok (.pllsrch) := by decide
theorem test_decode_pllchk : decode 0b00010001000000000000000000000000#32 = .ok (.pllchk) := by decide
theorem test_decode_freqrb : decode 0b00010010000000000000000000000000#32 = .ok (.freqrb) := by decide
theorem test_decode_rtcread : decode 0b00100000000000000000000000000000#32 = .ok (.rtcread) := by decide
theorem test_decode_tsdef : decode 0b00110000000000000000000000000000#32 = .ok (.tsdef) := by decide
theorem test_decode_rtcval : decode 0b00110001000000000000000000000000#32 = .ok (.rtcval) := by decide
theorem test_decode_rtcinit : decode 0b00110010000000000000000000000000#32 = .ok (.rtcinit) := by decide
theorem test_decode_setsec : decode 0b00111000000000001111111111111111#32 = .ok (.setsec 65535#16) := by decide
theorem test_decode_setmin : decode 0b00111001000000000000000000111011#32 = .ok (.setmin 59#16) := by decide
theorem test_decode_sethour : decode 0b00111010000000000000000000010111#32 = .ok (.sethour 23#16) := by decide
theorem test_decode_setdow : decode 0b00111011000000000000000000000110#32 = .ok (.setdow 6#16) := by decide
theorem test_decode_setdom : decode 0b00111100000000000000000000011101#32 = .ok (.setdom 29#16) := by decide
theorem test_decode_setmon : decode 0b00111101000000000000000000000010#32 = .ok (.setmon 2#16) := by decide
theorem test_decode_setyear : decode 0b00111110000000000000011110110010#32 = .ok (.setyear 1970#16) := by decide
theorem test_decode_setdoy : decode 0b00111111000000000000000101101110#32 = .ok (.setdoy 366#16) := by decide

/-- The 20 codes of R31's table. -/
theorem test_reg_codes :
    RegId.all.map RegId.code =
      [0x00#8, 0x01#8, 0x02#8, 0x03#8, 0x04#8, 0x05#8, 0x10#8, 0x11#8, 0x12#8, 0x13#8, 0x14#8, 0x15#8, 0x16#8, 0x17#8, 0x18#8,
       0x19#8, 0x1A#8, 0x1B#8, 0x1C#8, 0xFF#8] := by decide

/-- spec/95 section 2.3: opcodes next to assigned ones. -/
theorem test_illegal_opcode :
    [0x00000000#32, 0xFFFFFFFF#32, 0x08000000#32, 0x0F000000#32, 0x13000000#32, 0x21000000#32, 0x33000000#32, 0x37000000#32,
      0x40000000#32].map decode = List.replicate 9 (.error .unassignedOpcode) := by decide

/-- spec/95 section 2.3: must-be-zero fields. -/
theorem test_illegal_field :
    [0x05000001#32, 0x10010000#32, 0x3C01001D#32, 0x0100FF00#32, 0x02030001#32].map decode
      = List.replicate 5 (.error .nonzeroField) := by decide

/-- spec/95 section 2.3: unassigned RegIds. -/
theorem test_illegal_reg :
    [0x01060000#32, 0x011D0000#32].map decode = List.replicate 2 (.error .unassignedReg) := by decide

theorem test_decode_table_word : decodeTableWord 32 0x01020000 = some (.regrd .pllstat) := by decide

theorem test_decode_table_word_illegal : decodeTableWord 32 0x05000001 = none := by decide

/-! ### Single steps, against spec/95_test_vectors.md -/

/-- The state after the step that runs the word `w`. -/
def after (w : Nat) (s : State) : State :=
  match step (s.withFetchWord 32 w) with
  | .next t => t
  | .fault _ | .refused _ => s

/-- The start state of table V-REG. -/
def live : State :=
  { State.reset with
    clk := { State.reset.clk with pllconLive := 3#2, pllcfgLive := ⟨5#16, 0#8⟩, cclkcfg := 1#8, clksrcsel := 1#2 }
    rtc := { time := ⟨59#6, 59#6, 23#5, 4#3, 29#5, 2#4, 2024#16, 60#12⟩, clken := true, ccrx := 8#31, tickif := true } }

/-- A state whose stored time is 31 April (vector V-INIT-2). -/
def april31 : State :=
  { live with rtc := { live.rtc with time := ⟨7#6, 8#6, 9#5, 2#3, 31#5, 4#4, 2023#16, 121#12⟩ } }

/-- TS holds the time with these words. -/
def withTs (c0 c1 c2 : Word) (s : State) : State := { s with ts := Capture.decodeCT ⟨c0, c1, c2⟩ }

/-- A write of 0 to PLLCON is pending. -/
def pendingOff : State := { live with clk := { live.clk with pllconPend := some 0#2 } }

/-- The same with the first magic value written. -/
def armedOff : State := { pendingOff with clk := { pendingOff.clk with feed := .armed } }

/-- The search inputs A0 = `des`, A1 = `inp`. -/
def searching (des inp : Nat) : State := { State.reset with x0 := BitVec.ofNat 32 des, x1 := BitVec.ofNat 32 inp }

/-- V-REG row 3. -/
theorem test_regrd_pllstat : (after 0x01020000 live).x0 = 0x03000005#32 ∧ (after 0x01020000 live).status = 0x100#32 := by decide

/-- V-REG row 7. -/
theorem test_regrd_ct0 : (after 0x01100000 live).x0 = 0x04173B3B#32 := by decide

/-- V-REG row 14. -/
theorem test_regwr_cclkcfg : (after 0x02040000 { live with x0 := 0xFFFFFFFF#32 }).clk.cclkcfg = 3#8 := by decide

/-- V-REG row 17. -/
theorem test_regwr_rtcilr : (after 0x021C0000 { live with x0 := 1#32 }).rtc.tickif = false := by decide

/-- V-FEED row 1, its last command, with 0 for 1. -/
theorem test_feed_commits : (after 0x03000000 pendingOff).clk = { live.clk with pllconLive := 0#2 } := by decide

/-- V-FEED row 12, its last command. -/
theorem test_feed_split : (after 0x03000000 { pendingOff with env := [[], [.foreign (.read .other)]] }).clk = live.clk := by decide

/-- V-REG row 21. -/
theorem test_barrier : after 0x04000000 live = { live with hist := [.barrier], status := 0x100#32 } := by decide

/-- V-DIS-1, the last five transactions and the first one. -/
theorem test_clkdis_history : (after 0x05000000 live).hist.take 5 =
      [.write .block .cclkcfg 0#32, .write .block .pllfeed 0x55#32, .write .block .pllfeed 0xAA#32, .write .block .pllcfg 0#32,
       .write .block .clksrcsel 0#32] ∧
    (after 0x05000000 live).hist.getLast? = some (.read .block .pllstat 0x03000005#32) := by decide

/-- V-DIS-4, second variant: a foreign transaction between t6 and t7 leaves the PLL enabled. -/
theorem test_clkdis_split : (after 0x05000000 { live with env := List.replicate 6 [] ++ [[.foreign (.write .other 0#32)]] }).clk.pllconLive = 1#2 := by decide

/-- V-SET-RTC (b), the first transactions. -/
theorem test_rtcset_first_writes : ((after 0x06000000 (withTs 0#32 0x07B20101#32 1#32 live)).hist.reverse.take 3) =
      [.read .block .rtcccr 0x11#32, .write .block .rtcccr 0x10#32, .write .block .sec 0#32] := by decide

/-- V-SET-RTC (d). -/
theorem test_rtcset_refused : after 0x06000000 live = { live with status := 0x120#32 } := by decide

/-- Program P1 with its memory: 12 memory and 29 bus transactions and three other events, and STATUS. -/
theorem test_boot_counts : let t := after 0x07000000 { april31 with mem := [(0x1000, 0xDE#8), (0x1001, 0xAD#8), (0x1002, 0xBE#8), (0x1003, 0xEF#8)] }
    t.hist.length = 12 + 29 + 3 ∧ t.status = 0x140#32 ∧
      t.mem.drop 4 = [(0x10000000, 0xDE#8), (0x10000001, 0xAD#8), (0x10000002, 0xBE#8), (0x10000003, 0xEF#8)] := by decide

/-- Program P1, the second BOOT. -/
theorem test_boot_twice : after 0x07000000 { live with booted := true } = { live with booted := true, status := 0x080#32 } := by decide

/-- V-SRCH row 14. -/
theorem test_pllsrch_exact : let t := after 0x10000000 (searching 20000 12000)
    t.pr = ⟨4#16, 1#8, 2#8⟩ ∧ t.x2 = 60000#32 ∧ t.x3 = 20000#32 ∧ t.status = 0x103#32 := by decide

/-- V-SRCH row 8. -/
theorem test_pllsrch_last : let t := after 0x10000000 (searching 50000 4000)
    t.pr = ⟨6#16, 0#8, 3#8⟩ ∧ t.x2 = 56000#32 ∧ t.x3 = 14000#32 ∧ t.status = 0x102#32 := by decide

/-- V-CHK row 10. -/
theorem test_pllchk_too_fast : let t := after 0x11000000 { State.reset with pr := ⟨4#16, 1#8, 0#8⟩, x1 := 12000#32 }
    t.x2 = 60000#32 ∧ t.x3 = 60000#32 ∧ t.status = 0x104#32 := by decide

/-- V-CHK row 8. -/
theorem test_pllchk_saturates : let t := after 0x11000000 { State.reset with pr := ⟨7#16, 0#8, 0#8⟩, x1 := 0xFFFFFFFF#32 }
    t.x2 = 0xFFFFFFFF#32 ∧ t.x3 = 0xFFFFFFFF#32 ∧ t.status = 0x100#32 := by decide

/-- V-FRB row 5. -/
theorem test_freqrb_pll : (after 0x12000000 { live with clk := { live.clk with pllcfgLive := ⟨4#16, 1#8⟩, cclkcfg := 2#8 } }).x2 = 20000000#32 := by decide

/-- V-FRB row 11: STATUS and the number of reads. -/
theorem test_freqrb_reserved : let t := after 0x12000000 { live with clk := { live.clk with pllconLive := 0#2, clksrcsel := 3#2 } }
    t.status = 0x300#32 ∧ t.hist.length = 2 := by decide

/-- V-READ-1's form on V-REG's counters. -/
theorem test_rtcread_valid : let t := after 0x20000000 live
    t.cs = ⟨0x04173B3B#32, 0x07E8021D#32, 0x3C#32⟩ ∧ t.status = 0x110#32 ∧ t.hist.length = 6 := by decide

/-- V-READ-2, the first round: TS and CS are untouched and the command stays in flight. -/
theorem test_rtcread_torn : let t := after 0x20000000 { live with env := [[], [.rtcStep ⟨0#6, 0#6, 0#5, 5#3, 1#5, 3#4, 2024#16, 61#12⟩ true]] }
    t.inflight = some .rtcread ∧ t.ts = live.ts ∧ t.cs = live.cs ∧ t.hist.length = 6 := by decide

/-- V-TSDEF. -/
theorem test_tsdef : let t := after 0x30000000 live
    t.ts.words = ⟨0#32, 0x07B20101#32, 1#32⟩ ∧ t.status = 0x100#32 ∧ t.hist = [] := by decide

/-- V-VALID row 7. -/
theorem test_rtcval_yes : (after 0x31000000 (withTs 0#32 0x07E8021D#32 0x3C#32 live)).status = 0x110#32 := by decide

/-- V-VALID row 6. -/
theorem test_rtcval_no : (after 0x31000000 (withTs 0#32 0x07E7021D#32 0x3C#32 live)).status = 0x100#32 := by decide

/-- V-INIT-2. -/
theorem test_rtcinit_replaces : let t := after 0x32000000 april31
    t.rtc.time = epoch Params.toy ∧ t.cs = ⟨0x02090807#32, 0x07E7041F#32, 0x79#32⟩ ∧ t.status = 0x140#32 ∧ t.hist.length = 17 := by decide

/-- V-INIT-1's form on V-REG's counters. -/
theorem test_rtcinit_keeps : let t := after 0x32000000 live
    t.rtc = live.rtc ∧ t.status = 0x110#32 ∧ t.hist.length = 6 := by decide

/-- V-SET row 1. -/
theorem test_setsec_takes : (after 0x3800003B (withTs 0#32 0x07B20101#32 1#32 live)).ts.words = ⟨0x3B#32, 0x07B20101#32, 1#32⟩ := by decide

/-- V-SET row 3. -/
theorem test_setsec_refuses : after 0x38000040 (withTs 0#32 0x07B20101#32 1#32 live) = { withTs 0#32 0x07B20101#32 1#32 live with status := 0x120#32 } := by decide

/-- V-SET row 5. -/
theorem test_setmin_takes : (after 0x3900003B (withTs 0#32 0x07B20101#32 1#32 live)).ts.words = ⟨0x3B00#32, 0x07B20101#32, 1#32⟩ := by decide

/-- V-SET row 6. -/
theorem test_setmin_refuses : after 0x3900003C (withTs 0#32 0x07B20101#32 1#32 live) = { withTs 0#32 0x07B20101#32 1#32 live with status := 0x120#32 } := by decide

/-- V-SET row 7. -/
theorem test_sethour_takes : (after 0x3A000017 (withTs 0#32 0x07B20101#32 1#32 live)).ts.words = ⟨0x170000#32, 0x07B20101#32, 1#32⟩ := by decide

/-- V-SET row 8. -/
theorem test_sethour_refuses : after 0x3A000018 (withTs 0#32 0x07B20101#32 1#32 live) = { withTs 0#32 0x07B20101#32 1#32 live with status := 0x120#32 } := by decide

/-- V-SET row 9. -/
theorem test_setdow_takes : (after 0x3B000006 (withTs 0#32 0x07B20101#32 1#32 live)).ts.words = ⟨0x06000000#32, 0x07B20101#32, 1#32⟩ := by decide

/-- V-SET row 10. -/
theorem test_setdow_refuses : after 0x3B000007 (withTs 0#32 0x07B20101#32 1#32 live) = { withTs 0#32 0x07B20101#32 1#32 live with status := 0x120#32 } := by decide

/-- V-SET row 20. -/
theorem test_setdom_takes : (after 0x3C00001D (withTs 0#32 0x07E80201#32 1#32 live)).ts.words = ⟨0#32, 0x07E8021D#32, 1#32⟩ := by decide

/-- V-SET row 17. -/
theorem test_setdom_refuses : after 0x3C00001D (withTs 0#32 0x07E7021C#32 1#32 live) = { withTs 0#32 0x07E7021C#32 1#32 live with status := 0x120#32 } := by decide

/-- V-SET row 28. -/
theorem test_setmon_takes : (after 0x3D000003 (withTs 0#32 0x07B2011F#32 1#32 live)).ts.words = ⟨0#32, 0x07B2031F#32, 1#32⟩ := by decide

/-- V-SET row 27. -/
theorem test_setmon_refuses : after 0x3D000004 (withTs 0#32 0x07B2011F#32 1#32 live) = { withTs 0#32 0x07B2011F#32 1#32 live with status := 0x120#32 } := by decide

/-- V-SET row 37. -/
theorem test_setyear_takes : (after 0x3E0007EC (withTs 0#32 0x07E8021D#32 1#32 live)).ts.words = ⟨0#32, 0x07EC021D#32, 1#32⟩ := by decide

/-- V-SET row 45. -/
theorem test_setyear_refuses : after 0x3E0007E7 (withTs 0#32 0x07E80101#32 0x16E#32 live) = { withTs 0#32 0x07E80101#32 0x16E#32 live with status := 0x120#32 } := by decide

/-- V-SET row 44. -/
theorem test_setdoy_takes : (after 0x3F00016E (withTs 0#32 0x07E80101#32 0x16D#32 live)).ts.words = ⟨0#32, 0x07E80101#32, 0x16E#32⟩ := by decide

/-- V-SET row 42. -/
theorem test_setdoy_refuses : after 0x3F00016E (withTs 0#32 0x07B20101#32 0x16D#32 live) = { withTs 0#32 0x07B20101#32 0x16D#32 live with status := 0x120#32 } := by decide

/-! ### Witnesses: for each statement with hypotheses, concrete states and operands that meet all of them together -/

/-- The calendar runs one step before every transaction. -/
def ticking : State := { live with env := [[.rtcSecond], [.rtcSecond]] }

/-- A fault has come. -/
def faulted : State := { live with run := .faulted, frame := some ⟨1#32, 2#32, 3#32, 4#32, 5#32, 6#32, 7#32, 8#32⟩ }

/-- TS holds the default epoch. -/
def epochTs : State := withTs 0#32 0x07B20101#32 1#32 live

/-- A word of each kind: opcode 0x33, CLKDIS with bit 0, REGRD of RegId 0x06, SETDOM with a reg field; then the two refusals. -/
theorem witness_RefusedWordSetsOnlyIllegal :
    opcodeOf 0x33000000#32 = 0x33#8 ∧ (opcodeOf 0x05000001#32 = 0x05#8 ∧ immOf 0x05000001#32 ≠ 0#16) ∧
    (opcodeOf 0x01060000#32 = 0x01#8 ∧ ∀ r ∈ RegId.all, r.code ≠ regOf 0x01060000#32) ∧
    (opcodeOf 0x3C01001D#32 = 0x3C#8 ∧ regOf 0x3C01001D#32 ≠ 0#8) ∧
    faulted.run ≠ .running ∧ ({ live with booted := true }).booted = true := by decide

theorem witness_StepRunsTheCommandWritten :
    decode 0x04000000#32 = .ok .barrier ∧
    (let s := { live with host := [.write 0x00#32 0x04000000#32] }
     s.inflight = none ∧ s.host = .write 0x00#32 0x04000000#32 :: [] ∧
       (s.dropSlot.agentSteps s.nextSlot).tickHang = none) := by decide

theorem witness_NoCommandReadsAFlag : live.ready ∧ live.quiet := by decide

theorem witness_EveryCommandEndsInANextState : live.params.wellFormed ∧ live.ready ∧ live.quiet := by decide

theorem witness_FaultAndHaltMoveTheRunState : live.run = .running ∧ live.run ≠ .faulted ∧ faulted.run ≠ .running ∧
    faulted.run = .faulted := by decide

theorem witness_FaultAbandonsTheDisableSequence_first :
    let s := { live with env := [[EnvEvent.fault none]] }
    s.ready ∧ s.feedQuiet ∧ (0 : Nat) ≤ 11 ∧ s.env = List.replicate 0 [] ++ ([EnvEvent.fault none] : Slot) :: [] := by decide

theorem witness_FaultAbandonsTheDisableSequence_last :
    let s := { live with env := List.replicate 11 [] ++ [[EnvEvent.fault none]] }
    s.ready ∧ s.feedQuiet ∧ 11 ≤ 11 ∧ s.env = List.replicate 11 [] ++ ([EnvEvent.fault none] : Slot) :: [] := by decide

theorem witness_RunStateOnlyMovesForward :
    ∃ t, State.noReset { live with env := [[.fault none]] } ∧ step { live with env := [[.fault none]] } = .next t ∧
      t.run = .faulted := ⟨_, by decide, rfl, by decide⟩

theorem witness_NothingRunsAfterAFault :
    ∃ t, faulted.run ≠ .running ∧ faulted.noReset ∧ step faulted = .next t := ⟨_, by decide, by decide, rfl⟩

/-- Values a reset may bring, with and without the battery's keeping the calendar. -/
def drawn (battery : Option (RtcTime × Bool × BitVec 31)) : ResetDraws :=
  { msp := 1#32, psp := 2#32, pllcon := 3#2, pllcfg := ⟨0xFFFF#16, 0xFF#8⟩, cclkcfg := 0xFF#8, clksrcsel := 3#2,
    tickif := true, ram := [0xAA#8], battery := battery }

theorem witness_ResetLeavesTheStateOfR53 :
    live.params.wellFormed ∧ Memory.wf live.mem = true ∧ (drawn none).battery = none ∧
    (drawn (some (RtcTime.zero, true, 0#31))).battery = some (RtcTime.zero, true, 0#31) ∧
    (live.params.sData.toNat ≤ 0x10000000 ∧ 0x10000000 < live.params.sEbss.toNat) ∧
    (live.params.sData.toNat ≤ 0x10000007 ∧ 0x10000007 < live.params.sEbss.toNat) ∧
    0x0FFFFFFF < live.params.sData.toNat ∧ live.params.sEbss.toNat ≤ 0x10000008 := by decide

theorem witness_ReadsReturnTheLiveRegisters : RegId.rtcilr ≠ .pllfeed ∧ RegId.rtcilr ≠ .other := by decide

/-- A write of 0 to RTCILR keeps TICKIF, a write of 1 clears it. -/
theorem witness_UnprotectedRegisterHoldsTheValueWritten :
    (live.params.wellFormed ∧ unprotectedWidth live.params .cclkcfg = some 2 ∧
      unprotectedWidth live.params .rtcccr = some 32) ∧ armedOff.clk.feed = .armed ∧ live.feedQuiet ∧
    (pendingOff.clk.feed = .idle ∧ pendingOff.clk.anyPend = true) := by decide

theorem witness_ProtectedWriteOnlyPends : armedOff.clk.feed = .armed ∧ live.feedQuiet ∧ live.params.wellFormed := by decide

theorem witness_FirstMagicValueArmsThePair :
    (armedOff.clk.feed = .armed ∧ armedOff.clk.anyPend = true) ∧
    (0x000000AA#32).toNat % 2 ^ 8 = 0xAA ∧ (0xFFFFFFAA#32).toNat % 2 ^ 8 = 0xAA ∧ pendingOff.clk.feed = .idle ∧
    State.feedQuiet { live with clk := { live.clk with feed := .armed } } := by decide

theorem witness_CompletePairCommits :
    (0xFFFFFF55#32).toNat % 2 ^ 8 = 0x55 ∧ armedOff.clk.feed = .armed := by decide

theorem witness_WrongFeedWriteDiscards :
    ((0x55#32).toNat % 2 ^ 8 = 0x55 ∧ pendingOff.clk.feed = .idle) ∧
    ((0xAB#32).toNat % 2 ^ 8 ≠ 0xAA ∧ (0xAB#32).toNat % 2 ^ 8 ≠ 0x55) := by decide

theorem witness_InterveningTransactionVoidsThePair :
    armedOff.clk.feed = .armed ∧ RegId.pllcon ≠ .pllfeed ∧ RegId.other ≠ .pllfeed := by decide

theorem witness_UnsettledFeedCasesAreMarked :
    (pendingOff.clk.anyPend = true ∧ pendingOff.clk.feed = .idle ∧ RegId.pllcfg ≠ .pllfeed) ∧
    (armedOff.clk.anyPend = true ∧ armedOff.clk.feed = .armed ∧ (0xAA#32).toNat % 2 ^ 8 = 0xAA) := by decide

theorem witness_LiveHalvesChangeOnlyByACompletePair :
    (armedOff.busWrite .block .pllfeed 0x55#32).clk.pllconLive ≠ armedOff.clk.pllconLive := by decide

theorem witness_RefusedMarkStaysUntilReset :
    ∃ t, State.noReset { live with clk := { live.clk with refused := true } } ∧
      step { live with clk := { live.clk with refused := true } } = .next t := ⟨_, by decide, rfl⟩

theorem witness_RegrdReadsOneRegister :
    live.ready ∧ live.quiet ∧ live.feedQuiet ∧ readView live.clk live.rtc .pllstat = some 0x03000005#32 ∧
    readView live.clk live.rtc .pllfeed = none ∧ readView live.clk live.rtc .other = none := by decide

theorem witness_RegwrPerformsOneWrite : live.ready ∧ live.quiet := by decide

theorem witness_FeedCommitsWhatIsPending :
    (pendingOff.ready ∧ pendingOff.quiet ∧ pendingOff.clk.feed = .idle) ∧ (live.ready ∧ live.quiet ∧ live.feedQuiet) := by
  decide

theorem witness_SplitPairLosesTheWrite :
    let s := { pendingOff with env := [[], [.foreign (.read .other)]] }
    s.ready ∧ s.clk.feed = .idle ∧ s.slotsAhead 2 = [[], [.foreign (.read .other)]] ∧
      ∀ v, BusOp.read .other ≠ .write .pllfeed v :=
  ⟨by decide, by decide, by decide, fun _ h => BusOp.noConfusion h⟩

theorem witness_BarrierChangesNothing : live.run = .running := by decide

theorem witness_ClkdisPerformsTheTwelveTransactions : live.ready ∧ live.quiet ∧ live.feedQuiet := by decide

theorem witness_ClkdisPostcondition : ticking.ready ∧ ticking.noForeign 12 ∧ ticking.feedQuiet := by decide

theorem witness_RtcsetRefusesAnInvalidTime : live.run = .running ∧ live.ts.valid live.params = false := by decide

theorem witness_RtcsetWritesTheCalendar :
    epochTs.ready ∧ epochTs.quiet ∧ epochTs.feedQuiet ∧ epochTs.ts.valid epochTs.params = true := by decide

theorem witness_RtcsetPostcondition :
    let s := { ticking with ts := epoch Params.toy }
    s.ready ∧ s.noForeign 11 ∧ s.ts.valid s.params = true := by decide

theorem witness_BootEstablishesTheExecutionState_valid :
    live.ready ∧ live.quiet ∧ live.feedQuiet ∧ live.params.wellFormed ∧ Memory.wf live.mem = true ∧ live.booted = false ∧
    live.rtc.time.valid live.params = true ∧ live.params.sIdata.toNat + 4 ≤ live.params.sData.toNat := by decide

/-- R77: the image begins one byte below the runtime region, so its first byte goes through all of it. -/
def overlapping : State :=
  { live with params := { Params.toy with sIdata := 0x0FFFFFFF#32 }, mem := [(0x0FFFFFFF, 0xAB#8), (0x10000000, 0xCD#8)] }

theorem witness_BootEstablishesTheExecutionState_overlap :
    overlapping.ready ∧ overlapping.quiet ∧ overlapping.feedQuiet ∧ overlapping.params.wellFormed ∧
    Memory.wf overlapping.mem = true ∧ overlapping.booted = false := by decide

/-- The copy of the overlapping image, byte after byte in ascending order. -/
theorem test_boot_overlap : (after 0x07000000 overlapping).mem =
    [(0x0FFFFFFF, 0xAB#8), (0x10000000, 0xAB#8), (0x10000001, 0xAB#8), (0x10000002, 0xAB#8), (0x10000003, 0xAB#8)] := by
  decide

/-- The image directly above the runtime region, and an invalid stored time. -/
theorem witness_BootEstablishesTheExecutionState_invalid :
    let s := { april31 with params := { Params.toy with sIdata := 0x10000008#32 } }
    s.ready ∧ s.quiet ∧ s.feedQuiet ∧ s.params.wellFormed ∧ Memory.wf s.mem = true ∧ s.booted = false ∧
    s.rtc.time.valid s.params = false ∧ s.params.sEbss.toNat ≤ s.params.sIdata.toNat := by decide

/-- The calendar steps before the first transaction, and once during the disable sequence. -/
def bootTicking : State :=
  { april31 with
    params := { Params.toy with sEdata := 0x10000001#32, sEbss := 0x10000002#32 }
    env := [.rtcStep RtcTime.zero true] :: List.replicate 21 [] ++ [[.rtcSecond]] }

theorem witness_BootPostcondition :
    ∃ t, bootTicking.run = .running ∧ bootTicking.tickHang = none ∧ bootTicking.feedQuiet ∧ bootTicking.params.wellFormed ∧
      Memory.wf bootTicking.mem = true ∧ bootTicking.inflight = none ∧ bootTicking.booted = false ∧
      bootTicking.noForeign 32 ∧ exec .boot bootTicking = .next t ∧ t.inflight = none :=
  ⟨_, by decide, by decide, by decide, by decide, by decide, by decide, by decide, by decide, rfl, by decide⟩

/-- A later round of BOOT, with the calendar at rest in all of it. -/
theorem witness_BootPostcondition_later :
    let s := { april31 with inflight := some .boot }
    ∃ t, s.run = .running ∧ s.tickHang = none ∧ s.feedQuiet ∧ s.params.wellFormed ∧ Memory.wf s.mem = true ∧
      s.noForeign 29 ∧ (∀ sl ∈ (s.slotsAhead 29).drop 17, sl = []) ∧ step s = .next t ∧ t.inflight = none :=
  ⟨_, by decide, by decide, by decide, by decide, by decide, by decide, by decide, rfl, by decide⟩

theorem witness_OnlyBootTouchesMemoryAndStacks :
    ∃ t, Instr.feed ≠ .boot ∧ live.noReset ∧ exec .feed live = .next t := ⟨_, by decide, by decide, rfl⟩

/-- A later round of RTCREAD and of RTCINIT. -/
theorem witness_OnlyBootTouchesMemoryAndStacks_later :
    ∃ t u, State.noReset { live with inflight := some .rtcread } ∧ step { live with inflight := some .rtcread } = .next t ∧
      State.noReset { april31 with inflight := some .rtcinit } ∧ step { april31 with inflight := some .rtcinit } = .next u :=
  ⟨_, _, by decide, rfl, by decide, rfl⟩

theorem witness_PllsrchFindsLeastExactElseLastViable :
    (searching 48000 4000).run = .running ∧ (searching 48000 4000).params.wellFormed := by decide

/-- V-SRCH row 11: nothing is viable, the third clause. -/
theorem witness_PllsrchFindsLeastExactElseLastViable_none :
    (after 0x10000000 (searching 48000 0)).status = 0x100#32 := by decide

theorem witness_InexactResultHasTheLargestDivider :
    ∃ t, (searching 50000 4000).run = .running ∧ (searching 50000 4000).params.wellFormed ∧
      exec .pllsrch (searching 50000 4000) = .next t ∧ t.status = 0x102#32 :=
  ⟨after 0x10000000 (searching 50000 4000), by decide, by decide, rfl, by decide⟩

theorem witness_PllchkTestsTheTriple : live.run = .running := by decide

theorem live_inv : live.Inv :=
  ⟨by decide, by decide, by decide, (fun _ h => nomatch h), by decide, by decide, by decide, by decide, by decide⟩

/-- The PLL enabled but not connected, and the reserved selector value. -/
def reserved : State := { live with clk := { live.clk with clksrcsel := 3#2, pllconLive := 1#2 } }

theorem reserved_inv : reserved.Inv :=
  ⟨by decide, by decide, by decide, (fun _ h => nomatch h), by decide, by decide, by decide, by decide, by decide⟩

theorem witness_FreqrbReconstructsTheFrequency :
    (live.ready ∧ live.quiet ∧ live.feedQuiet ∧ live.Inv ∧ live.params.wellFormed) ∧
    (reserved.ready ∧ reserved.quiet ∧ reserved.feedQuiet ∧ reserved.Inv ∧ reserved.params.wellFormed) :=
  ⟨⟨by decide, by decide, by decide, live_inv, by decide⟩, ⟨by decide, by decide, by decide, reserved_inv, by decide⟩⟩

theorem witness_SearchAndReadbackRoundTrip :
    ∃ t, live.ready ∧ live.quiet ∧ live.Inv ∧ live.params.wellFormed ∧ live.clk.pllconLive = 3#2 ∧
      srcHz live.params live.clk.clksrcsel = some (1000 * 12000) ∧ exec .freqrb live = .next t ∧
      fcpu live.clk.pllcfgLive.m.toNat live.clk.pllcfgLive.n.toNat live.clk.cclkcfg.toNat (1000 * 12000) ≤ 2 ^ 32 - 1 :=
  ⟨after 0x12000000 live, by decide, by decide, live_inv, by decide, by decide, by decide, rfl, by decide⟩

theorem witness_RtcreadOfAQuietCalendar : live.ready ∧ live.quiet ∧ live.feedQuiet := by decide

/-- The read returns, goes on, and is abandoned. -/
theorem witness_RtcreadReturnsOnlyTwoEqualFullReads :
    (∃ t, live.ready ∧ exec .rtcread live = .next t ∧ t.inflight = none) ∧
    (∃ t, ticking.ready ∧ exec .rtcread ticking = .next t ∧ t.inflight = some .rtcread) ∧
    (∃ t, exec .rtcread { live with env := [[.fault none]] } = .next t ∧ t.run = .faulted) :=
  ⟨⟨_, by decide, rfl, by decide⟩, ⟨_, by decide, rfl, by decide⟩, ⟨_, rfl, by decide⟩⟩

/-- A later round of the read. -/
theorem witness_RtcreadReturnsOnlyTwoEqualFullReads_later :
    ∃ t, State.run { live with inflight := some .rtcread } = .running ∧
      State.tickHang { live with inflight := some .rtcread } = none ∧
      step { live with inflight := some .rtcread } = .next t := ⟨_, by decide, by decide, rfl⟩

/-- The calendar of `RtcreadNeverEndsOnAnUnendingChange`, changing between two times. -/
def restless : State :=
  { live with
    inflight := some .rtcread
    rtc := { live.rtc with time := epoch Params.toy }
    envLoop := [[], [], [], [.rtcStep RtcTime.zero false], [], [], [], [], [], [.rtcStep (epoch Params.toy) false], [], []] }

theorem witness_RtcreadNeverEndsOnAnUnendingChange :
    RtcTime.zero ≠ epoch Params.toy ∧ restless.run = .running ∧ restless.tickHang = none ∧
    restless.inflight = some .rtcread ∧ restless.feedQuiet ∧ restless.noForeign 6 ∧
    restless.roundAhead.1 ≠ restless.roundAhead.2 := by decide

/-- The machine after the first round of `restless`. -/
def restless1 : State :=
  match step restless with
  | .next t => t
  | .fault _ | .refused _ => restless

/-- Both rounds of `restless` change between their full reads, the premise for `k` = 2. -/
theorem witness_RtcreadNeverEndsOnAnUnendingChange_rounds :
    ∀ j t, j < 2 → core.run j restless = .next t → t.noForeign 6 ∧ t.roundAhead.1 ≠ t.roundAhead.2
  | 0, _, _, h => Host.Outcome.next.inj h ▸ (by decide : restless.noForeign 6 ∧ restless.roundAhead.1 ≠ restless.roundAhead.2)
  | 1, t, _, h =>
    have e : restless1 = t := Host.Outcome.next.inj h
    e ▸ (by decide : restless1.noForeign 6 ∧ restless1.roundAhead.1 ≠ restless1.roundAhead.2)
  | _ + 2, _, h, _ => absurd h (by omega)

/-- A later round of the read. -/
theorem witness_RtcreadReturnsASingleInstant_later :
    let s := { live with inflight := some .rtcread }
    ∃ t, s.run = .running ∧ s.tickHang = none ∧ s.feedQuiet ∧ s.noForeign 6 ∧ s.slotsAhead 6 = [[], [], [], [], [], []] ∧
      (ct0Trace ([] ++ [] ++ []) (s.dropSlot.agentSteps [])).Nodup ∧ step s = .next t ∧ t.inflight = none :=
  ⟨_, by decide, by decide, by decide, by decide, by decide, by decide, rfl, by decide⟩

/-- The default leap-year predicate, and one turned round at 1900. -/
theorem witness_ValidIsTheCalendarRule :
    Params.toy.leapFlips = [] ∧ isLeap Params.toy 1900#16 = true ∧ isLeap Params.toy 1970#16 = false ∧
    isLeap { Params.toy with leapFlips := [1900#16] } 1900#16 = false := by decide

/-- One step of the calendar, before the first read. -/
theorem witness_RtcreadReturnsASingleInstant :
    let s := { live with env := [[.rtcSecond]] }
    ∃ t, s.ready ∧ s.feedQuiet ∧ s.noForeign 6 ∧ s.slotsAhead 6 = [[.rtcSecond], [], [], [], [], []] ∧
      (ct0Trace ([] ++ [] ++ []) (s.dropSlot.agentSteps [.rtcSecond])).Nodup ∧ exec .rtcread s = .next t ∧ t.inflight = none :=
  ⟨_, by decide, by decide, by decide, by decide, by decide, rfl, by decide⟩

theorem witness_TsdefLoadsTheEpoch : live.run = .running ∧ live.params.epochDow.toNat ≤ 6 := by decide

theorem witness_RtcvalTestsTheTime : live.run = .running := by decide

theorem witness_RtcinitKeepsAValidTime :
    live.ready ∧ live.quiet ∧ live.feedQuiet ∧ live.rtc.time.valid live.params = true := by decide

theorem witness_RtcinitReplacesAnInvalidTime :
    april31.ready ∧ april31.quiet ∧ april31.feedQuiet ∧ april31.rtc.time.valid april31.params = false := by decide

theorem witness_RtcinitPostcondition :
    let s := { april31 with env := List.replicate 6 [] ++ [[.rtcStep RtcTime.zero false]] }
    ∃ t, s.ready ∧ s.noForeign 17 ∧ s.params.wellFormed ∧ exec .rtcinit s = .next t ∧ t.inflight = none :=
  ⟨_, by decide, by decide, by decide, rfl, by decide⟩

/-- A later round of RTCINIT. -/
theorem witness_RtcinitPostcondition_later :
    let s := { april31 with inflight := some .rtcinit }
    ∃ t, s.run = .running ∧ s.tickHang = none ∧ s.noForeign 17 ∧ s.params.wellFormed ∧ step s = .next t ∧
      t.inflight = none :=
  ⟨_, by decide, by decide, by decide, by decide, rfl, by decide⟩

/-- A running machine, and each verdict at both ends of its range: 59 and 60 seconds, 23 and 24 hours, weekdays 6 and 7. -/
theorem witness_RangeSettersTakeOrRefuse :
    live.run = .running ∧ (59#16).toNat ≤ 59 ∧ ¬ (60#16).toNat ≤ 59 ∧ (23#16).toNat ≤ 23 ∧ ¬ (24#16).toNat ≤ 23 ∧
    (6#16).toNat ≤ 6 ∧ ¬ (7#16).toNat ≤ 6 := by decide

theorem witness_DayAndMonthSettersCheckSiblings : epochTs.run = .running ∧
    daysInMonth epochTs.params epochTs.ts.month.toNat epochTs.ts.year = some 31 ∧
    daysInMonth epochTs.params 0 epochTs.ts.year = none ∧ daysInMonth epochTs.params 13 epochTs.ts.year = none := by decide

theorem witness_YearSettersCheckSiblings : epochTs.run = .running ∧ daysInYear epochTs.params 1970#16 = 365 ∧
    daysInYear epochTs.params 2024#16 = 366 := by decide

theorem witness_SettersKeepAValidTimeValid :
    (∃ t, epochTs.run = .running ∧ epochTs.ts.valid epochTs.params = true ∧ exec (.setdom 31#16) epochTs = .next t) ∧
    (∃ t, exec (.setdom 32#16) epochTs = .next t ∧ t.status = 0x120#32) :=
  ⟨⟨_, by decide, by decide, rfl⟩, ⟨_, rfl, by decide⟩⟩

theorem witness_CalendarAgentIsFrozenWhileStopped :
    live.rtc.clken = true ∧ State.reset.rtc.clken = false ∧ live.rtc.time.valid live.params = true ∧
    (april31.rtc.clken = true ∧ april31.rtc.time.valid april31.params = false) := by decide

/-- `RtcSucc` at the ends of its ranges: from 23:59:59 on 29 February 2024 to 1 March. -/
theorem test_second_of_leap_day :
    (live.agentStep .rtcSecond).rtc.time = ⟨0#6, 0#6, 0#5, 5#3, 1#5, 3#4, 2024#16, 61#12⟩ := by decide

theorem witness_TickHandlerMustClearTheFlag :
    live.ready ∧ live.rtc.tickif = true ∧ live.params.tickEnabled = true ∧ live.quiet := by decide

/-- A read-only offset, an unassigned one, and the first and last readable ones. -/
theorem witness_HostPortAccess :
    (live.ready ∧ live.quiet) ∧ 0x04#32 ∉ [0x00#32, 0x08#32, 0x0C#32, 0x10#32, 0x14#32, 0x18#32] ∧
    0x34#32 ∉ [0x00#32, 0x08#32, 0x0C#32, 0x10#32, 0x14#32, 0x18#32] ∧
    0x34#32 ∉ [0x00#32, 0x04#32, 0x08#32, 0x0C#32, 0x10#32, 0x14#32, 0x18#32, 0x1C#32, 0x20#32, 0x24#32, 0x28#32, 0x2C#32,
      0x30#32] ∧
    State.host { live with host := [.write 0x18#32 7#32] } = .write 0x18#32 7#32 :: [] ∧
    State.host { live with host := [.read 0x30#32] } = .read 0x30#32 :: [] := by decide

theorem witness_EveryStepKeepsTheInvariant : ∃ t, live.Inv ∧ step live = .next t := ⟨_, live_inv, rfl⟩

end Sys2Proof.Tests
end

section
/-! PROOF. The words the registers are read as, as numbers; what a read returns and what it leaves unchanged. -/

namespace Sys2Proof.Machine

open Sys2Proof

/-! ### The layouts as numbers -/

theorem toNat_append_eq_add {n k : Nat} (x : BitVec n) (y : BitVec k) :
    (x ++ y).toNat = x.toNat * 2 ^ k + y.toNat := by
  rw [BitVec.toNat_append, ← Nat.shiftLeft_add_eq_or_of_lt y.isLt, Nat.shiftLeft_eq]

theorem toNat_extractLsb'_eq {n : Nat} (a k : Nat) (v : BitVec n) :
    (v.extractLsb' a k).toNat = v.toNat / 2 ^ a % 2 ^ k := by
  rw [BitVec.extractLsb'_toNat, Nat.shiftRight_eq_div_pow]

/-- CT0's fields stand apart (R48). -/
theorem RtcTime.ct0_toNat (t : RtcTime) :
    t.ct0.toNat = t.sec.toNat + 2 ^ 8 * t.min.toNat + 2 ^ 16 * t.hour.toNat + 2 ^ 24 * t.dow.toNat := by
  simp only [RtcTime.ct0, toNat_append_eq_add, BitVec.toNat_ofNat]
  omega

/-- CT1's fields stand apart (R48). -/
theorem RtcTime.ct1_toNat (t : RtcTime) :
    t.ct1.toNat = t.dom.toNat + 2 ^ 8 * t.month.toNat + 2 ^ 16 * t.year.toNat := by
  simp only [RtcTime.ct1, toNat_append_eq_add, BitVec.toNat_ofNat]
  omega

theorem RtcTime.ct2_toNat (t : RtcTime) : t.ct2.toNat = t.doy.toNat := by
  simp only [RtcTime.ct2, toNat_append_eq_add, BitVec.toNat_ofNat]
  omega

theorem pllstatWord_toNat (con : BitVec 2) (c : PllCfg) :
    (pllstatWord con c).toNat = c.m.toNat + 2 ^ 16 * c.n.toNat + 2 ^ 24 * con.toNat := by
  simp only [pllstatWord, toNat_append_eq_add, BitVec.toNat_ofNat]
  omega

theorem PllCfg.word_toNat (c : PllCfg) : c.word.toNat = c.m.toNat + 2 ^ 16 * c.n.toNat := by
  simp only [PllCfg.word, toNat_append_eq_add, BitVec.toNat_ofNat]
  omega

theorem CalendarRegs.ccrWord_toNat (c : CalendarRegs) : c.ccrWord.toNat = c.clken.toNat + 2 * c.ccrx.toNat := by
  simp only [CalendarRegs.ccrWord, toNat_append_eq_add, BitVec.toNat_ofBool]
  omega

/-- `DecodeCT` takes the three words apart again (R48): each field lies where its layout put it, below the next one. -/
@[simp] theorem RtcTime.decodeCT_words (t : RtcTime) : t.words.decodeCT = t := by
  have h0 := t.ct0_toNat
  have h1 := t.ct1_toNat
  have h2 := t.ct2_toNat
  obtain ⟨sec, min, hour, dow, dom, month, year, doy⟩ := t
  simp only [RtcTime.words, Capture.decodeCT, RtcTime.mk.injEq, ← BitVec.toNat_inj, toNat_extractLsb'_eq, h0, h1, h2]
  omega

/-! ### What a read returns -/

/-- Every register but PLLFEED and OTHER has a readable word (R31, R32). -/
theorem readView_readable {r : RegId} (h1 : r ≠ .pllfeed) (h2 : r ≠ .other) (c : ClockRegs) (d : CalendarRegs) :
    ∃ v, readView c d r = some v := by
  cases r with
  | pllfeed => exact absurd rfl h1
  | other => exact absurd rfl h2
  | _ => exact ⟨_, rfl⟩

/-- Where a register has a readable word, that word is what a read returns. -/
theorem State.readView_busRead {r : RegId} (h1 : r ≠ .pllfeed) (h2 : r ≠ .other) (who : Master) (s : State) :
    readView s.clk s.rtc r = some (s.busRead who r).1 := by
  obtain ⟨v, hv⟩ := readView_readable h1 h2 s.clk s.rtc
  rw [hv, State.busRead_value hv]

/-! ### What a read leaves unchanged -/

/-- The frame of an intervening transaction's part in the feed machinery: `feed` is Idle after it. -/
theorem ClockRegs.intervene_frame (c : ClockRegs) (k : Nat) :
    (c.intervene k).1 =
      { c with pllconPend := (c.intervene k).1.pllconPend, pllcfgPend := (c.intervene k).1.pllcfgPend, feed := .idle,
               refused := (c.intervene k).1.refused } := by
  obtain ⟨-, h⟩ | ⟨hf, -, h⟩ | ⟨hf, -, h⟩ := c.intervene_cases k <;> rw [h]
  · rfl
  · simp only [ClockRegs.unsettle, hf]
  · rw [← hf]

/-- The whole effect of a read on the state: only the feed machinery, the history and the draw index move (R52). -/
theorem State.busRead_state (who : Master) (r : RegId) (s : State) :
    (s.busRead who r).2 =
      { s with clk := (s.clk.intervene s.draws).1, hist := .read who r (s.busRead who r).1 :: s.hist,
               draws := (s.busRead who r).2.draws } := by
  rw [(s.busRead_frame who r).eq, s.busRead_clk, s.busRead_rtc, s.busRead_hist]

/-! ### The statements -/

/-- Settles O13: each read returns its layout's word, whose fields stand apart. -/
theorem consolidatedWordsAndTheirInverse : Obligations.ConsolidatedWordsAndTheirInverse := by
  intro s who
  have h0 : (s.busRead who .ct0).1 = s.rtc.time.ct0 := State.busRead_value rfl
  have h1 : (s.busRead who .ct1).1 = s.rtc.time.ct1 := State.busRead_value rfl
  have h2 : (s.busRead who .ct2).1 = s.rtc.time.ct2 := State.busRead_value rfl
  simp only [h0, h1, h2]
  exact ⟨s.rtc.time.ct0_toNat, s.rtc.time.ct1_toNat, s.rtc.time.ct2_toNat, s.rtc.time.decodeCT_words⟩

/-- Settles O14: each word is the register's readable word, read as a number by its layout; the frame is that of the
read's part in the feed machinery. -/
theorem readsReturnTheLiveRegisters : Obligations.ReadsReturnTheLiveRegisters := by
  intro s who
  have word {r : RegId} {v : Word} {k : Nat} (hv : readView s.clk s.rtc r = some v) (hk : v.toNat = k) :
      (s.busRead who r).1.toNat = k := by
    rw [State.busRead_value hv, hk]
  have narrow {n : Nat} (hn : n ≤ 32) (x : BitVec n) : (x.setWidth 32).toNat = x.toNat :=
    BitVec.toNat_setWidth_of_le hn
  refine ⟨word rfl (pllstatWord_toNat _ _), word rfl (narrow (by decide) _), word rfl s.clk.pllcfgLive.word_toNat,
    word rfl (narrow (by decide) _), word rfl (narrow (by decide) _), word rfl s.rtc.ccrWord_toNat,
    word rfl ?_, ?_, fun r h1 h2 => s.readView_busRead h1 h2 who, fun r => ?_⟩
  · rw [narrow (by decide), BitVec.toNat_ofBool]
  · refine ⟨?_, ?_, ?_, ?_, ?_, ?_, ?_, ?_⟩ <;> exact word rfl (narrow (by decide) _)
  · calc (s.busRead who r).2
      _ = { s with clk := (s.clk.intervene s.draws).1, hist := .read who r (s.busRead who r).1 :: s.hist,
                   draws := (s.busRead who r).2.draws } := s.busRead_state who r
      _ = _ := by rw [s.busRead_clk, ← s.clk.intervene_frame]

end Sys2Proof.Machine
end

section
/-! PROOF. What each kind of bus write does to the protected registers and the feed pair (R38 to R43). -/

namespace Sys2Proof.Machine

open Sys2Proof

/-! ### Writes to PLLFEED -/

/-- Only bits 7 to 0 of a word written to PLLFEED are compared (R38). -/
theorem extractLsb'_zero_eq_iff {n k : Nat} (v : BitVec n) (b : BitVec k) :
    v.extractLsb' 0 k = b ↔ v.toNat % 2 ^ k = b.toNat := by
  rw [← BitVec.toNat_inj, toNat_extractLsb'_eq, Nat.pow_zero, Nat.div_one]

section
variable {c : ClockRegs} {v : Word} {k : Nat}

theorem firstMagic_iff : v.extractLsb' 0 8 = 0xAA#8 ↔ v.toNat % 2 ^ 8 = 0xAA := extractLsb'_zero_eq_iff v 0xAA#8

theorem secondMagic_iff : v.extractLsb' 0 8 = 0x55#8 ↔ v.toNat % 2 ^ 8 = 0x55 := extractLsb'_zero_eq_iff v 0x55#8

/-- R40: the first magic value arms the pair. -/
theorem ClockRegs.feedWrite_first (hv : v.toNat % 2 ^ 8 = 0xAA) (h : c.feed = .idle ∨ c.anyPend = false) :
    c.feedWrite k v = ({ c with feed := .armed }, k) := by
  rw [ClockRegs.feedWrite, if_pos (firstMagic_iff.mpr hv)]
  cases hf : c.feed with
  | idle => rfl
  | armed =>
    have hp : c.anyPend = false := h.resolve_left (by simp [hf])
    simp only [hp, Bool.false_eq_true, if_false]
    rw [← hf]

/-- R40: a second one with something pending is the case the source does not settle. -/
theorem ClockRegs.feedWrite_first_again (hv : v.toNat % 2 ^ 8 = 0xAA) (hf : c.feed = .armed)
    (hp : c.anyPend = true) : c.feedWrite k v = (c.unsettle k, k + 2) := by
  simp only [ClockRegs.feedWrite, if_pos (firstMagic_iff.mpr hv), hf, if_pos hp]

/-- R41: the second magic value completes an armed pair. -/
theorem ClockRegs.feedWrite_second (hv : v.toNat % 2 ^ 8 = 0x55) (hf : c.feed = .armed) :
    c.feedWrite k v = (c.commit, k) := by
  have first : ¬ v.extractLsb' 0 8 = 0xAA#8 := by rw [firstMagic_iff, hv]; decide
  rw [ClockRegs.feedWrite, if_neg first, if_pos ⟨secondMagic_iff.mpr hv, hf⟩]

/-- R42: every other PLLFEED write discards what is pending. -/
theorem ClockRegs.feedWrite_wrong (h : (v.toNat % 2 ^ 8 = 0x55 ∧ c.feed = .idle) ∨
    (v.toNat % 2 ^ 8 ≠ 0xAA ∧ v.toNat % 2 ^ 8 ≠ 0x55)) : c.feedWrite k v = (c.discard, k) := by
  have first : ¬ v.extractLsb' 0 8 = 0xAA#8 := by rw [firstMagic_iff]; omega
  have second : ¬ (v.extractLsb' 0 8 = 0x55#8 ∧ c.feed = .armed) := by
    rw [secondMagic_iff]
    rintro ⟨hv, hf⟩
    obtain ⟨-, hi⟩ | ⟨-, hn⟩ := h
    · rw [hi] at hf
      cases hf
    · exact hn hv
  rw [ClockRegs.feedWrite, if_neg first, if_neg second]

end

theorem State.busWrite_pllfeed (who : Master) (v : Word) (s : State) :
    s.busWrite who .pllfeed v = (s.putFed (s.clk.feedWrite s.draws v)).log (.write who .pllfeed v) := rfl

/-- Settles O17, by the two cases of R40. -/
theorem firstMagicValueArmsThePair : Obligations.FirstMagicValueArmsThePair := by
  intro s who v hv
  constructor
  · intro h
    have hq : s.clk.feed = .idle ∨ s.clk.anyPend = false := h.imp_right fun ⟨h1, h2⟩ => ClockRegs.anyPend_of_none h1 h2
    rw [State.busWrite_pllfeed, ClockRegs.feedWrite_first hv hq]
    rfl
  · intro hf hp
    rw [State.busWrite_pllfeed, ClockRegs.feedWrite_first_again hv hf hp]
    rfl

/-- Settles O18, by R41's case of a PLLFEED write. -/
theorem completePairCommits : Obligations.CompletePairCommits := by
  intro s who v hv hf
  rw [State.busWrite_pllfeed, ClockRegs.feedWrite_second hv hf]
  rfl

/-- Settles O19, by R42's case of a PLLFEED write. -/
theorem wrongFeedWriteDiscards : Obligations.WrongFeedWriteDiscards := by
  intro s who v h
  rw [State.busWrite_pllfeed, ClockRegs.feedWrite_wrong h]
  rfl

/-! ### Writes to the protected registers -/

/-- A field cut out of a word and then to its low `k` bits is the word shifted and cut, whatever `k` is (R36, R45). -/
theorem keepLow_extractLsb' {n w : Nat} (k a : Nat) (v : BitVec w) :
    keepLow k (v.extractLsb' a n) = BitVec.ofNat n (v.toNat / 2 ^ a % 2 ^ k) := by
  apply BitVec.eq_of_getLsbD_eq
  intro i hi
  simp only [keepLow, toNat_extractLsb'_eq, BitVec.getLsbD_ofNat, Nat.testBit_mod_two_pow, hi, decide_true,
    Bool.true_and]

theorem PllCfg.ofWord_eq (P : Params) (v : Word) :
    PllCfg.ofWord P v =
      ⟨BitVec.ofNat 16 (v.toNat % 2 ^ P.mBits), BitVec.ofNat 8 (v.toNat / 2 ^ 16 % 2 ^ P.nBits)⟩ := by
  simp only [PllCfg.ofWord, PllCfg.fit, keepLow_extractLsb', Nat.pow_zero, Nat.div_one]

theorem State.busWrite_pllcon (who : Master) (v : Word) (s : State) :
    s.busWrite who .pllcon v =
      (s.putFed (s.clk.protectedWrite s.draws (ClockRegs.pendPllcon v))).log (.write who .pllcon v) := rfl

theorem State.busWrite_pllcfg (who : Master) (v : Word) (s : State) :
    s.busWrite who .pllcfg v =
      (s.putFed (s.clk.protectedWrite s.draws (ClockRegs.pendPllcfg s.params v))).log (.write who .pllcfg v) := rfl

/-- R39 (b): while `feed` is Armed only the value written is then pending. -/
theorem ClockRegs.protectedWrite_armed {c : ClockRegs} {k : Nat} {put : ClockRegs → ClockRegs}
    (hf : c.feed = .armed) : c.protectedWrite k put = (put c.discard, k) := by
  simp only [ClockRegs.protectedWrite, hf]

/-- R39 (a): with nothing pending and `feed` Idle the value written is then pending. -/
theorem ClockRegs.protectedWrite_idle {c : ClockRegs} {k : Nat} {put : ClockRegs → ClockRegs}
    (hf : c.feed = .idle) (hp : c.anyPend = false) : c.protectedWrite k put = (put c, k) := by
  simp [ClockRegs.protectedWrite, hf, hp]

/-! ### Writes to the other registers -/

/-- A write to a register that is neither protected nor PLLFEED: its part in the feed machinery, then what it stores. -/
theorem State.busWrite_unprotected {r : RegId} (h1 : r ≠ .pllcon) (h2 : r ≠ .pllcfg) (h3 : r ≠ .pllfeed)
    (who : Master) (v : Word) (s : State) :
    s.busWrite who r v =
      { s.intervene with clk := s.intervene.clk.put s.params r v, rtc := s.rtc.put r v,
                         hist := .write who r v :: s.hist } := by
  cases r with
  | pllcon => exact absurd rfl h1
  | pllcfg => exact absurd rfl h2
  | pllfeed => exact absurd rfl h3
  | _ => rfl

/-- What is stored directly is the divider and the selector, nothing of the feed machinery. -/
theorem ClockRegs.put_frame (P : Params) (r : RegId) (v : Word) (c : ClockRegs) :
    c.put P r v = { c with cclkcfg := (c.put P r v).cclkcfg, clksrcsel := (c.put P r v).clksrcsel } := by
  cases r <;> rfl

/-! ### A transaction between the two magic values -/

/-- The state a void pair leaves: nothing pending, `feed` Idle (R43). -/
def State.voidPair (s : State) : State := { s with clk := s.clk.discard }

theorem State.intervene_voidPair (s : State) : s.voidPair.intervene = s.voidPair := by
  have h : s.clk.discard.intervene s.draws = (s.clk.discard, s.draws) := ClockRegs.intervene_idle rfl rfl
  simp only [State.intervene, State.voidPair, h]
  rfl

/-- R43: an intervening transaction in an armed pair leaves the void pair. -/
theorem State.intervene_armed {s : State} (hf : s.clk.feed = .armed) : s.intervene = s.voidPair := by
  rw [State.intervene, ClockRegs.intervene_armed hf]
  rfl

/-- R43: a read in an armed pair is the read after the pair was voided. -/
theorem State.busRead_armed {s : State} (hf : s.clk.feed = .armed) (who : Master) (r : RegId) :
    s.busRead who r = s.voidPair.busRead who r := by
  simp only [State.busRead, State.intervene_armed hf, State.intervene_voidPair]

/-- R43, R39 (b): a write in an armed pair, to any register but PLLFEED, is the write after the pair was voided. -/
theorem State.busWrite_armed {s : State} (hf : s.clk.feed = .armed) (who : Master) {r : RegId} (hr : r ≠ .pllfeed)
    (v : Word) : s.busWrite who r v = s.voidPair.busWrite who r v := by
  have protect (put : ClockRegs → ClockRegs) :
      s.clk.protectedWrite s.draws put = s.voidPair.clk.protectedWrite s.voidPair.draws put := by
    rw [ClockRegs.protectedWrite_armed hf, ClockRegs.protectedWrite_idle rfl rfl]
    rfl
  by_cases h1 : r = .pllcon
  · subst h1
    rw [State.busWrite_pllcon, State.busWrite_pllcon, protect]
    rfl
  by_cases h2 : r = .pllcfg
  · subst h2
    rw [State.busWrite_pllcfg, State.busWrite_pllcfg, protect]
    rfl
  rw [State.busWrite_unprotected h1 h2 hr, State.busWrite_unprotected h1 h2 hr, State.intervene_armed hf,
    State.intervene_voidPair]
  rfl

/-- What a write in an armed pair leaves in the feed machinery: the pair is void, and only a protected write's own value
is pending (R43, R39 (b)). -/
theorem State.busWrite_armed_clk {s : State} (hf : s.clk.feed = .armed) (who : Master) {r : RegId} (hr : r ≠ .pllfeed)
    (v : Word) :
    (s.busWrite who r v).clk =
      { s.clk with
        pllconPend := if r = .pllcon then some (v.extractLsb' 0 2) else none
        pllcfgPend := if r = .pllcfg then some (PllCfg.ofWord s.params v) else none
        feed := .idle
        cclkcfg := (s.busWrite who r v).clk.cclkcfg
        clksrcsel := (s.busWrite who r v).clk.clksrcsel } := by
  by_cases h1 : r = .pllcon
  · subst h1
    rw [State.busWrite_pllcon, ClockRegs.protectedWrite_armed hf]
    rfl
  by_cases h2 : r = .pllcfg
  · subst h2
    rw [State.busWrite_pllcfg, ClockRegs.protectedWrite_armed hf]
    rfl
  rw [State.busWrite_unprotected h1 h2 hr, State.intervene_armed hf, if_neg h1, if_neg h2]
  exact ClockRegs.put_frame s.params r v s.clk.discard

/-- Settles O20: both transactions are those of the voided pair's state, whose feed machinery the write's own value then
enters. -/
theorem interveningTransactionVoidsThePair : Obligations.InterveningTransactionVoidsThePair := by
  intro s who r v hf
  refine ⟨⟨State.busRead_armed hf who r, fun hr => State.busWrite_armed hf who hr v⟩, ⟨?_, s.busRead_rtc who r⟩,
    fun hr => ?_⟩
  · rw [s.busRead_clk, ClockRegs.intervene_armed hf]
    rfl
  · intro t
    have hc : t.clk = _ := State.busWrite_armed_clk hf who hr v
    rw [← PllCfg.ofWord_eq, hc]
    exact ⟨rfl, rfl, rfl, rfl, rfl, rfl⟩

end Sys2Proof.Machine
end

section
/-! PROOF. Which words select a command and which the block refuses (R103 to R108). -/

namespace Sys2Proof

/-! ### What a word of each format decodes to -/

section
variable {w : Word} {i j : Instr}

theorem formatZ_eq_ok_iff : formatZ w i = .ok j ↔ i = j ∧ regOf w = 0#8 ∧ immOf w = 0#16 := by
  unfold formatZ
  split <;> next hz => simp [hz]

theorem formatR_eq_ok_iff {f : RegId → Instr} :
    formatR w f = .ok j ↔ ∃ r : RegId, f r = j ∧ regOf w = r.code ∧ immOf w = 0#16 := by
  constructor
  · intro h
    unfold formatR at h
    split at h
    next himm =>
      split at h
      next r hr => exact ⟨r, Except.ok.inj h, (RegId.code_of_ofCode hr).symm, himm⟩
      next => cases h
    next => cases h
  · rintro ⟨r, rfl, hreg, himm⟩
    simp [formatR, hreg, himm]

theorem formatI_eq_ok_iff {f : BitVec 16 → Instr} :
    formatI w f = .ok j ↔ f (immOf w) = j ∧ regOf w = 0#8 := by
  unfold formatI
  split <;> next hz => simp [hz]

/-! ### What a word decodes to -/

/-- The decoder gives a command only for the command's own fields: the split is the decoder's, one branch per row of R106. -/
theorem fields_of_decode (h : decode w = .ok i) :
    opcodeOf w = i.opcode ∧ regOf w = i.regField ∧ immOf w = i.immField := by
  unfold decode at h
  split at h
  case h_1 hop | h_2 hop =>
    obtain ⟨r, rfl, hreg, himm⟩ := formatR_eq_ok_iff.1 h
    exact ⟨hop, hreg, himm⟩
  case h_15 hop | h_16 hop | h_17 hop | h_18 hop | h_19 hop | h_20 hop | h_21 hop | h_22 hop =>
    obtain ⟨rfl, hreg⟩ := formatI_eq_ok_iff.1 h
    exact ⟨hop, hreg, rfl⟩
  case h_23 => cases h
  all_goals
    next hop =>
      obtain ⟨rfl, hreg, himm⟩ := formatZ_eq_ok_iff.1 h
      exact ⟨hop, hreg, himm⟩

/-- A word with the fields of a command decodes to it: its opcode picks the command's format, which the other two fields
meet. -/
theorem decode_of_fields (hop : opcodeOf w = i.opcode) (hreg : regOf w = i.regField) (himm : immOf w = i.immField) :
    decode w = .ok i := by
  unfold decode
  rw [hop]
  cases i with
  | regrd r | regwr r => exact formatR_eq_ok_iff.2 ⟨r, rfl, hreg, himm⟩
  | setsec v | setmin v | sethour v | setdow v | setdom v | setmon v | setyear v | setdoy v =>
    exact formatI_eq_ok_iff.2 ⟨congrArg _ himm, hreg⟩
  | _ => exact formatZ_eq_ok_iff.2 ⟨rfl, hreg, himm⟩

theorem decode_eq_ok_iff :
    decode w = .ok i ↔ opcodeOf w = i.opcode ∧ regOf w = i.regField ∧ immOf w = i.immField :=
  ⟨fields_of_decode, fun ⟨hop, hreg, himm⟩ => decode_of_fields hop hreg himm⟩

/-- A word is a command's word if its fields are the command's (R103). -/
theorem eq_encode_of_fields (hop : opcodeOf w = i.opcode) (hreg : regOf w = i.regField) (himm : immOf w = i.immField) :
    w = encode i := by
  rw [word_eq_fields w, hop, hreg, himm, encode]

end

/-! ### The row's mask and match value -/

/-- The command's own word has the bits its row fixes (R106). -/
theorem encode_and_mask (i : Instr) : encode i &&& i.mask = i.matchWord := by
  cases i with
  | regrd r | regwr r => exact Laws.WordFields.and_mask_formatR _ _
  | setsec v | setmin v | sethour v | setdow v | setdom v | setmon v | setyear v | setdoy v =>
    exact Laws.WordFields.and_mask_formatI _ _
  | _ => rfl

/-- Every row fixes the whole opcode (R106). -/
theorem opcodeOf_mask (i : Instr) : opcodeOf i.mask = BitVec.allOnes 8 := by
  cases i <;> simp only [Instr.mask] <;> decide

theorem opcodeOf_and (v w : Word) : opcodeOf (v &&& w) = opcodeOf v &&& opcodeOf w := BitVec.extractLsb'_and

theorem opcodeOf_matchWord (i : Instr) : opcodeOf i.matchWord = i.opcode := BitVec.extractLsb'_append_eq_left

/-- A word with the bits a row fixes has the row's opcode. -/
theorem opcodeOf_of_mask {w : Word} {i : Instr} (h : w &&& i.mask = i.matchWord) : opcodeOf w = i.opcode :=
  calc opcodeOf w = opcodeOf (w &&& i.mask) := by rw [opcodeOf_and, opcodeOf_mask, BitVec.and_allOnes]
    _ = i.opcode := by rw [h, opcodeOf_matchWord]

/-- Settles O2: both sides say that the word has the command's three fields, the opcode being under every row's mask. -/
theorem wordSelectsCommandByMaskAndMatch : Obligations.WordSelectsCommandByMaskAndMatch := by
  intro w i
  rw [decode_eq_ok_iff]
  constructor
  · rintro ⟨hop, hreg, himm⟩
    have hw : w = encode i := eq_encode_of_fields hop hreg himm
    exact ⟨hw ▸ encode_and_mask i, hreg, himm⟩
  · rintro ⟨hmask, hreg, himm⟩
    exact ⟨opcodeOf_of_mask hmask, hreg, himm⟩

/-! ### The opcodes by format, and what a format fixes of the other two fields -/

/-- The opcodes of the rows of format Z (R106). -/
def formatZOpcodes : List (BitVec 8) :=
  [0x03#8, 0x04#8, 0x05#8, 0x06#8, 0x07#8, 0x10#8, 0x11#8, 0x12#8, 0x20#8, 0x30#8, 0x31#8, 0x32#8]

/-- The opcodes of the rows of format R (R106). -/
def formatROpcodes : List (BitVec 8) := [0x01#8, 0x02#8]

/-- The opcodes of the rows of format I (R106). -/
def formatIOpcodes : List (BitVec 8) := [0x38#8, 0x39#8, 0x3A#8, 0x3B#8, 0x3C#8, 0x3D#8, 0x3E#8, 0x3F#8]

theorem Instr.opcode_mem (i : Instr) : i.opcode ∈ formatZOpcodes ++ formatROpcodes ++ formatIOpcodes := by
  cases i <;> simp [Instr.opcode, formatZOpcodes, formatROpcodes, formatIOpcodes]

theorem Instr.fields_of_formatZ {i : Instr} (h : i.opcode ∈ formatZOpcodes) :
    i.regField = 0#8 ∧ i.immField = 0#16 := by
  cases i with
  | regrd r | regwr r | setsec v | setmin v | sethour v | setdow v | setdom v | setmon v | setyear v | setdoy v =>
    simp [Instr.opcode, formatZOpcodes] at h
  | _ => exact ⟨rfl, rfl⟩

theorem Instr.fields_of_formatR {i : Instr} (h : i.opcode ∈ formatROpcodes) :
    i.immField = 0#16 ∧ ∃ r : RegId, r.code = i.regField := by
  cases i with
  | regrd r | regwr r => exact ⟨rfl, r, rfl⟩
  | _ => simp [Instr.opcode, formatROpcodes] at h

theorem Instr.regField_of_formatI {i : Instr} (h : i.opcode ∈ formatIOpcodes) : i.regField = 0#8 := by
  cases i with
  | regrd r | regwr r => simp [Instr.opcode, formatIOpcodes] at h
  | _ => rfl

end Sys2Proof

namespace Sys2Proof.Machine

open Sys2Proof

/-! ### Refused words -/

/-- Every command looks at RUN first (R27). -/
theorem exec_eq_whenRunning (i : Instr) (s : State) : ∃ body, exec i s = whenRunning s body := by
  cases i <;> exact ⟨_, rfl⟩

/-- A command issued while RUN is not Running is refused (R108). -/
theorem exec_of_not_running {s : State} (h : s.run ≠ .running) (i : Instr) : exec i s = .next s.illegal := by
  obtain ⟨body, hbody⟩ := exec_eq_whenRunning i s
  rw [hbody, whenRunning, if_neg h]

/-- A second BOOT is refused, whatever RUN is (R108). -/
theorem execBoot_of_booted {s : State} (h : s.booted = true) : execBoot s = .next s.illegal := by
  rw [execBoot, if_pos h, whenRunning, ite_self]

theorem issue_of_decode_ok {w : Word} {i : Instr} (h : decode w = .ok i) (s : State) : issue w s = exec i s := by
  rw [issue, h]

/-- A word is refused if it selects no command or the command it selects is refused (R100, R108). -/
theorem issue_refused {w : Word} {s : State} (h : ∀ i, decode w = .ok i → exec i s = .next s.illegal) :
    issue w s = .next s.illegal := by
  cases hd : decode w with
  | ok i => rw [issue_of_decode_ok hd, h i hd]
  | error e => rw [issue, hd]

/-- Settles O3. An illegal word has not the fields of any command, and so selects none; the other two refusals are made by
the command selected. -/
theorem refusedWordSetsOnlyIllegal : Obligations.RefusedWordSetsOnlyIllegal := by
  intro w s formatZ formatR formatI h
  refine issue_refused fun i hdec => ?_
  obtain ⟨hop, hreg, himm⟩ := decode_eq_ok_iff.1 hdec
  rw [hop, hreg, himm] at h
  rcases h with hnone | ⟨hz, hbad⟩ | ⟨hr, hbad⟩ | ⟨hi, hbad⟩ | hrun | ⟨rfl, hbooted⟩
  · exact absurd i.opcode_mem hnone
  · obtain ⟨hreg0, himm0⟩ := Instr.fields_of_formatZ hz
    exact absurd hbad (by simp [hreg0, himm0])
  · obtain ⟨himm0, r, hcode⟩ := Instr.fields_of_formatR hr
    exact absurd hbad (not_or.2 ⟨not_not.2 himm0, fun hnot => hnot r hcode⟩)
  · exact absurd (Instr.regField_of_formatI hi) hbad
  · exact exec_of_not_running hrun i
  · have hboot : i = .boot := (Except.ok.inj hdec).symm
    rw [hboot]
    exact execBoot_of_booted hbooted

end Sys2Proof.Machine
end

section
/-! PROOF. A command whose transactions only the calendar agent's steps come between (R82): each transaction is made where
the next slot has left the machine, and what the slots cannot touch. -/

namespace Sys2Proof.Machine

open Sys2Proof

/-- Before each of the next `k` transactions only the calendar agent steps, and a command can go on. -/
structure State.Undisturbed (k : Nat) (s : State) : Prop where
  slots : s.noForeign k
  run : s.run = .running
  hang : s.tickHang = none

theorem State.ready.undisturbed {s : State} {k : Nat} (h : s.ready) (hn : s.noForeign k) : s.Undisturbed k :=
  ⟨hn, h.1, h.2.2⟩

/-- The coming slots depend on the schedule alone. -/
theorem State.slotsAhead_congr {s t : State} (henv : s.env = t.env) (hloop : s.envLoop = t.envLoop) (k : Nat) :
    s.slotsAhead k = t.slotsAhead k := by
  induction k generalizing s t with
  | zero => rfl
  | succ k ih =>
    have hnext : s.nextSlot = t.nextSlot := by simp only [State.nextSlot, henv, hloop]
    have hdrop : s.dropSlot.env = t.dropSlot.env := by
      simp only [State.dropSlot, henv, hloop]
      split <;> rfl
    rw [State.slotsAhead, State.slotsAhead, hnext, ih hdrop (by simpa using hloop)]

/-- A transaction leaves the coming slots as they are. -/
theorem SameButBus.undisturbed {s t : State} {k : Nat} (hb : SameButBus s t) (h : s.Undisturbed k) :
    t.Undisturbed k where
  slots := by
    have henv : t.env = s.env := by rw [hb.eq]
    have hloop : t.envLoop = s.envLoop := by rw [hb.eq]
    rw [State.noForeign, State.slotsAhead_congr henv hloop]
    exact h.slots
  run := hb.run.trans h.run
  hang := hb.tickHang.trans h.hang

/-! ### What a slot of calendar steps leaves -/

/-- Slots of calendar steps and transactions change only the clock and calendar registers, the history, the draw index and
the schedule. -/
structure SameButSlots (s t : State) : Prop where
  eq : t = { s with clk := t.clk, rtc := t.rtc, hist := t.hist, draws := t.draws, env := t.env }

theorem SameButSlots.refl (s : State) : SameButSlots s s := ⟨rfl⟩

theorem SameButSlots.trans {s t u : State} (h1 : SameButSlots s t) (h2 : SameButSlots t u) : SameButSlots s u := by
  constructor
  rw [h2.eq]
  conv_lhs => rw [h1.eq]

theorem SameButBus.slots {s t : State} (h : SameButBus s t) : SameButSlots s t := by
  constructor
  conv_lhs => rw [h.eq]
  rw [h.eq]

theorem SameButCalendar.slots {s t : State} (h : SameButCalendar s t) : SameButSlots s t := by
  constructor
  conv_lhs => rw [h.eq]
  rw [h.eq]

theorem SameButSlots.params {s t : State} (h : SameButSlots s t) : t.params = s.params := by rw [h.eq]

theorem SameButSlots.ts {s t : State} (h : SameButSlots s t) : t.ts = s.ts := by rw [h.eq]

theorem State.dropSlot_slots (s : State) : SameButSlots s s.dropSlot := by
  constructor
  unfold State.dropSlot
  split <;> rfl

section
variable {s : State} {k : Nat}

theorem State.Undisturbed.nextSlot (h : s.Undisturbed (k + 1)) : ∀ e ∈ s.nextSlot, EnvEvent.isCalendar e = true :=
  h.slots s.nextSlot List.mem_cons_self

theorem State.Undisturbed.afterSlot_calendar (h : s.Undisturbed (k + 1)) : SameButCalendar s.dropSlot s.afterSlot :=
  State.calendar_agentSteps h.nextSlot s.dropSlot

theorem State.Undisturbed.afterSlot_frame (h : s.Undisturbed (k + 1)) : SameButSlots s s.afterSlot :=
  s.dropSlot_slots.trans h.afterSlot_calendar.slots

theorem State.Undisturbed.afterSlot_clk (h : s.Undisturbed (k + 1)) : s.afterSlot.clk = s.clk := by
  rw [h.afterSlot_calendar.eq, ← s.dropSlot_clk]

theorem State.Undisturbed.afterSlot_hist (h : s.Undisturbed (k + 1)) : s.afterSlot.hist = s.hist := by
  rw [h.afterSlot_calendar.eq, ← s.dropSlot_hist]

/-- The calendar agent has no hand in RTCCCR (R50). -/
theorem State.Undisturbed.afterSlot_ccr (h : s.Undisturbed (k + 1)) :
    s.afterSlot.rtc.clken = s.rtc.clken ∧ s.afterSlot.rtc.ccrx = s.rtc.ccrx := by
  rw [h.afterSlot_calendar.eq, ← s.dropSlot_rtc]
  exact ⟨rfl, rfl⟩

/-- While `CLKEN` = 0 the calendar agent leaves the calendar alone (R50). -/
theorem State.Undisturbed.afterSlot_stopped (h : s.Undisturbed (k + 1)) (hc : s.rtc.clken = false) :
    s.afterSlot.rtc = s.rtc := by
  have hd : s.dropSlot.rtc.clken = false := by rwa [s.dropSlot_rtc]
  rw [State.afterSlot, State.calendar_stopped_steps h.nextSlot hd, s.dropSlot_rtc]

/-! ### Undisturbed transactions -/

theorem State.Undisturbed.pass (h : s.Undisturbed (k + 1)) :
    Machine.pass s = .ok () s.afterSlot ∧ s.afterSlot.Undisturbed k := by
  obtain ⟨hpass, hslots⟩ := pass_noForeign h.slots h.run h.hang
  have hrun : s.afterSlot.run = s.run := by rw [h.afterSlot_frame.eq]
  have hhang : s.afterSlot.tickHang = s.tickHang := by rw [h.afterSlot_frame.eq]
  exact ⟨hpass, hslots, hrun.trans h.run, hhang.trans h.hang⟩

theorem State.Undisturbed.txRead (h : s.Undisturbed (k + 1)) (r : RegId) :
    Machine.txRead r s = .ok (s.afterSlot.busRead .block r).1 (s.afterSlot.busRead .block r).2 ∧
    (s.afterSlot.busRead .block r).2.Undisturbed k := by
  obtain ⟨hpass, hafter⟩ := h.pass
  exact ⟨by rw [Machine.txRead, hpass, Run.andThen_ok], (s.afterSlot.busRead_frame .block r).undisturbed hafter⟩

/-- A read of a register that has a readable word, as the next transaction: its word, and what it leaves. -/
theorem State.Undisturbed.txRead_value (h : s.Undisturbed (k + 1)) {r : RegId} {v : Word}
    (hv : readView s.afterSlot.clk s.afterSlot.rtc r = some v) :
    ∃ t, Machine.txRead r s = .ok v t ∧ t.Undisturbed k ∧ SameButSlots s t ∧
      t.clk = (s.clk.intervene s.afterSlot.draws).1 ∧ t.rtc = s.afterSlot.rtc ∧ t.hist = .read .block r v :: s.hist := by
  have hval : (s.afterSlot.busRead .block r).1 = v := State.busRead_value hv
  obtain ⟨hread, hafter⟩ := h.txRead r
  rw [hval] at hread
  refine ⟨_, hread, hafter, h.afterSlot_frame.trans (s.afterSlot.busRead_frame .block r).slots, ?_,
    s.afterSlot.busRead_rtc .block r, ?_⟩
  · rw [State.busRead_clk, h.afterSlot_clk]
  · rw [State.busRead_hist, hval, h.afterSlot_hist]

/-- The block's write as the next transaction: the next slot is taken first. -/
def State.slotWrite (r : RegId) (v : Word) (s : State) : State := s.afterSlot.busWrite .block r v

/-- The block's writes `ws`, each after its slot. -/
def State.slotWrites (ws : List (RegId × Word)) (s : State) : State := ws.foldl (fun t w => t.slotWrite w.1 w.2) s

@[simp] theorem State.slotWrites_nil (s : State) : s.slotWrites [] = s := rfl

@[simp] theorem State.slotWrites_cons (w : RegId × Word) (ws : List (RegId × Word)) (s : State) :
    s.slotWrites (w :: ws) = (s.slotWrite w.1 w.2).slotWrites ws := rfl

theorem State.slotWrites_append (ws ws' : List (RegId × Word)) (s : State) :
    s.slotWrites (ws ++ ws') = (s.slotWrites ws).slotWrites ws' := List.foldl_append

theorem State.Undisturbed.txWrite (h : s.Undisturbed (k + 1)) (r : RegId) (v : Word) :
    Machine.txWrite r v s = .ok () (s.slotWrite r v) ∧ (s.slotWrite r v).Undisturbed k := by
  obtain ⟨hpass, hafter⟩ := h.pass
  exact ⟨by rw [Machine.txWrite, hpass, Run.andThen_ok, State.slotWrite],
    (s.afterSlot.busWrite_frame .block r v).undisturbed hafter⟩

/-- One more write uses one more slot. -/
theorem State.Undisturbed.cons {w : RegId × Word} {ws : List (RegId × Word)}
    (h : s.Undisturbed ((w :: ws).length + k)) : s.Undisturbed (ws.length + k + 1) := by
  rwa [List.length_cons, Nat.add_right_comm] at h

/-- A command's list of writes goes through to its end. -/
theorem State.Undisturbed.txWrites {ws : List (RegId × Word)} (h : s.Undisturbed (ws.length + k)) :
    Machine.txWrites ws s = .ok () (s.slotWrites ws) ∧ (s.slotWrites ws).Undisturbed k := by
  induction ws generalizing s with
  | nil => exact ⟨rfl, by rwa [List.length_nil, Nat.zero_add] at h⟩
  | cons w ws ih =>
    obtain ⟨r, v⟩ := w
    obtain ⟨hwrite, hafter⟩ := h.cons.txWrite r v
    rw [txWrites_cons, hwrite, Run.andThen_ok]
    exact ih hafter

/-! ### What undisturbed writes leave -/

theorem State.Undisturbed.slotWrites_frame {ws : List (RegId × Word)} (h : s.Undisturbed (ws.length + k)) :
    SameButSlots s (s.slotWrites ws) := by
  induction ws generalizing s with
  | nil => exact .refl s
  | cons w ws ih =>
    have hwrite : SameButSlots s (s.slotWrite w.1 w.2) :=
      h.cons.afterSlot_frame.trans (s.afterSlot.busWrite_frame .block w.1 w.2).slots
    exact hwrite.trans (ih (h.cons.txWrite w.1 w.2).2)

/-- Exactly the writes of the list are added to the history. -/
theorem State.Undisturbed.slotWrites_hist {ws : List (RegId × Word)} (h : s.Undisturbed (ws.length + k)) :
    (s.slotWrites ws).hist = writeEvents ws ++ s.hist := by
  induction ws generalizing s with
  | nil => rfl
  | cons w ws ih =>
    have hwrite : (s.slotWrite w.1 w.2).hist = .write .block w.1 w.2 :: s.hist := by
      rw [State.slotWrite, State.busWrite_hist, h.cons.afterSlot_hist]
    calc (s.slotWrites (w :: ws)).hist
      _ = writeEvents ws ++ (s.slotWrite w.1 w.2).hist := ih (h.cons.txWrite w.1 w.2).2
      _ = writeEvents (w :: ws) ++ s.hist := by simp [hwrite, writeEvents]

end

end Sys2Proof.Machine
end

section
/-! PROOF. The register-write sequencer (R121 to R129): REGWR and BARRIER, the clock registers under the disable sequence,
and the calendar registers under the calendar write. -/

namespace Sys2Proof.Machine

open Sys2Proof

theorem whenRunning_of_running {s : State} (h : s.run = .running) (body : Host.Outcome State Fault Refusal) :
    whenRunning s body = body := if_pos h

/-- Settles O25: with no slot to take, the one transaction is made in the state at hand. -/
theorem regwrPerformsOneWrite : Obligations.RegwrPerformsOneWrite := by
  rintro r s ⟨hrun, -, hhang⟩ hquiet
  have hwrite : txWrite r s.x0 s = .ok () (s.busWrite .block r s.x0) := txWrite_quiet hquiet hrun hhang r s.x0
  calc exec (.regwr r) s
    _ = ((txWrite r s.x0 s).andThen fun _ t => .ok () (t.setFlags [.done])).outcome := whenRunning_of_running hrun _
    _ = .next { s.busWrite .block r s.x0 with status := 0x100#32 } := by rw [hwrite]; rfl

/-- Settles O28: BARRIER's meaning is that state. -/
theorem barrierChangesNothing : Obligations.BarrierChangesNothing := fun _ hrun => whenRunning_of_running hrun _

/-! ### The clock registers under undisturbed writes -/

/-- From the clock registers `c` the undisturbed writes `ws` lead to `c'`, whatever else the state holds: no draw has a part
in it. -/
def ClockWrites (P : Params) (ws : List (RegId × Word)) (c c' : ClockRegs) : Prop :=
  ∀ (s : State) (k : Nat), s.Undisturbed (ws.length + k) → s.params = P → s.clk = c → (s.slotWrites ws).clk = c'

section
variable {P : Params}

theorem ClockWrites.append {ws ws' : List (RegId × Word)} {c c' c'' : ClockRegs} (h : ClockWrites P ws c c')
    (h' : ClockWrites P ws' c' c'') : ClockWrites P (ws ++ ws') c c'' := by
  intro s k hs hP hc
  rw [List.length_append, Nat.add_assoc] at hs
  rw [State.slotWrites_append]
  exact h' _ k hs.txWrites.2 (hs.slotWrites_frame.params.trans hP) (h s _ hs hP hc)

/-- One write: what it does to the clock registers whatever the draw index is. -/
theorem ClockWrites.single {r : RegId} {v : Word} {c c' : ClockRegs}
    (h : ∀ s : State, s.params = P → s.clk = c → (s.busWrite .block r v).clk = c') : ClockWrites P [(r, v)] c c' := by
  intro s k hs hP hc
  exact h s.afterSlot (hs.cons.afterSlot_frame.params.trans hP) (hs.cons.afterSlot_clk.trans hc)

/-- R122: an undisturbed feed pair begun in Idle commits what is pending. -/
theorem clockWrites_feedPair {c : ClockRegs} (hf : c.feed = .idle) : ClockWrites P feedPair c c.commit := by
  have arm : ClockWrites P [(.pllfeed, 0x000000AA#32)] c { c with feed := .armed } := .single fun s _ hc => by
    rw [State.busWrite_pllfeed, hc, ClockRegs.feedWrite_first rfl (.inl hf)]
    rfl
  have complete : ClockWrites P [(.pllfeed, 0x00000055#32)] { c with feed := .armed } c.commit := .single fun s _ hc => by
    rw [State.busWrite_pllfeed, hc, ClockRegs.feedWrite_second rfl rfl]
    rfl
  exact arm.append complete

/-- With nothing pending and `feed` Idle, a write of PLLCON and a feed pair make the value live (R39 (a), R41). -/
theorem clockWrites_pllcon_fed (v : Word) (c : ClockRegs) :
    ClockWrites P ((.pllcon, v) :: feedPair) c.discard { c with pllconLive := v.extractLsb' 0 2 }.discard := by
  have pend : ClockWrites P [(.pllcon, v)] c.discard (c.discard.pendPllcon v) := .single fun s _ hc => by
    rw [State.busWrite_pllcon, hc, ClockRegs.protectedWrite_idle rfl rfl]
    rfl
  exact pend.append (clockWrites_feedPair rfl)

/-- The same for PLLCFG. -/
theorem clockWrites_pllcfg_fed (v : Word) (c : ClockRegs) :
    ClockWrites P ((.pllcfg, v) :: feedPair) c.discard { c with pllcfgLive := PllCfg.ofWord P v }.discard := by
  have pend : ClockWrites P [(.pllcfg, v)] c.discard (c.discard.pendPllcfg P v) := .single fun s hP hc => by
    rw [State.busWrite_pllcfg, hc, hP, ClockRegs.protectedWrite_idle rfl rfl]
    rfl
  exact pend.append (clockWrites_feedPair rfl)

/-- With nothing pending and `feed` Idle, a write of a register without a pending half stores its value at once (R45, R46). -/
theorem clockWrites_unprotected {r : RegId} (h1 : r ≠ .pllcon) (h2 : r ≠ .pllcfg) (h3 : r ≠ .pllfeed) (v : Word)
    (c : ClockRegs) : ClockWrites P [(r, v)] c.discard (c.put P r v).discard := .single fun s hP hc => by
  rw [State.busWrite_unprotected h1 h2 h3, State.intervene, hc, hP, ClockRegs.intervene_idle rfl rfl]
  cases r <;> rfl

/-- The clock registers with the PLL off, its fields, the divider and the selector zero (R127). -/
def ClockRegs.disabled (c : ClockRegs) : ClockRegs :=
  { c with pllconLive := 0#2, pllconPend := none, pllcfgLive := ⟨0#16, 0#8⟩, pllcfgPend := none, feed := .idle,
           cclkcfg := 0#8, clksrcsel := 0#2 }

/-- t2 to t12 of CLKDIS, whichever word t1 read: disconnect, disable, select the internal source, clear the fields, clear
the divider (R126). -/
theorem clockWrites_disable (w : Word) (c : ClockRegs) : ClockWrites P (disableWrites w) c.discard c.disabled := by
  have disconnect := clockWrites_pllcon_fed (P := P) (if w.getLsbD 24 then 1#32 else 0#32) c
  have disable := disconnect.append (clockWrites_pllcon_fed 0#32 _)
  have select := disable.append (clockWrites_unprotected (r := .clksrcsel) (by decide) (by decide) (by decide) 0#32 _)
  have fields := select.append (clockWrites_pllcfg_fed 0#32 _)
  have divider := fields.append (clockWrites_unprotected (r := .cclkcfg) (by decide) (by decide) (by decide) 0#32 _)
  simpa [ClockRegs.put, ClockRegs.discard, ClockRegs.disabled, PllCfg.ofWord_eq, keepLow, disableWrites] using divider

end

/-! ### CLKDIS -/

/-- Bit 24 of the word t1 reads is PLLE (R37). -/
theorem pllstatWord_enable (con : BitVec 2) (c : PllCfg) : (pllstatWord con c).getLsbD 24 = con.getLsbD 0 := by
  simp only [pllstatWord, BitVec.getLsbD_append]
  rfl

/-- With nothing pending, an intervening transaction only ends an open pair (R43). -/
theorem ClockRegs.intervene_nonePending {c : ClockRegs} (h1 : c.pllconPend = none) (h2 : c.pllcfgPend = none) (k : Nat) :
    (c.intervene k).1 = c.discard := by
  obtain ⟨-, h⟩ | ⟨-, hp, -⟩ | ⟨hf, -, h⟩ := c.intervene_cases k
  · rw [h]
  · rw [ClockRegs.anyPend_of_none h1 h2] at hp
    cases hp
  · rw [h]
    obtain ⟨_, _, _, _, _, _, _, _⟩ := c
    cases h1
    cases h2
    cases hf
    rfl

/-- What the twelve transactions of the disable sequence leave (R126). -/
theorem disableBody_undisturbed {s : State} {k : Nat} (h : s.Undisturbed (11 + k + 1)) (hp : s.feedQuiet) :
    ∃ t, disableBody s = .ok () t ∧ t.Undisturbed k ∧ SameButSlots s t ∧ t.clk = s.clk.disabled ∧
      t.hist = disableEvents (pllstatWord s.clk.pllconLive s.clk.pllcfgLive) ++ s.hist := by
  let w : Word := pllstatWord s.clk.pllconLive s.clk.pllcfgLive
  obtain ⟨hp1, hp2⟩ := hp
  obtain ⟨t, hread, ht, hframe, hclk, -, hhist⟩ := h.txRead_value (r := .pllstat) (v := w) (by rw [h.afterSlot_clk]; rfl)
  rw [ClockRegs.intervene_nonePending hp1 hp2] at hclk
  have ht' : t.Undisturbed ((disableWrites w).length + k) := ht
  obtain ⟨hwrites, hend⟩ := ht'.txWrites
  refine ⟨t.slotWrites (disableWrites w), ?_, hend, hframe.trans ht'.slotWrites_frame, ?_, ?_⟩
  · rw [disableBody, hread, Run.andThen_ok, hwrites]
  · exact clockWrites_disable w s.clk t k ht' rfl hclk
  · rw [ht'.slotWrites_hist, hhist, disableEvents, List.append_assoc]
    rfl

/-- FREQRB that nothing disturbs, on the internal source with the PLL off, returns the source's frequency (R157). -/
theorem execFreqrb_internal {s : State} (hq : s.quiet) (hr : s.run = .running) (ht : s.tickHang = none)
    (hp : s.feedQuiet) (hsel : s.clk.clksrcsel = 0#2) (hcon : s.clk.pllconLive = 0#2) :
    ∃ u, execFreqrb s = .next u ∧ u.x2 = saturate s.params.fIntHz := by
  let sel : Word := 0#32
  let stat : Word := pllstatWord 0#2 s.clk.pllcfgLive
  let t : State := { s with clk := { s.clk with feed := .idle }, hist := .read .block .clksrcsel sel :: s.hist }
  let u : State := { t with hist := .read .block .pllstat stat :: t.hist }
  have readSel : txRead .clksrcsel s = .ok sel t := txRead_feedQuiet hq hr ht hp (by rw [readView, hsel]; rfl)
  have readStat : txRead .pllstat t = .ok stat u :=
    txRead_feedQuiet (s := t) hq hr ht hp (congrArg some (congrArg₂ pllstatWord hcon rfl))
  have hoff : stat.getLsbD 24 = false := pllstatWord_enable _ _
  refine ⟨u.readbackDone sel stat none, ?_, rfl⟩
  rw [execFreqrb, whenRunning_of_running hr, readSel, Run.andThen_ok, readStat, Run.andThen_ok, hoff, Bool.false_and,
    if_neg Bool.false_ne_true, Run.outcome_ok]

/-- Settles O30: the disable sequence under `NoForeign`, and FREQRB in the state it leaves. -/
theorem clkdisPostcondition : Obligations.ClkdisPostcondition := by
  intro s hready hslots hp
  obtain ⟨t, hbody, ht, hframe, hclk, hhist⟩ := disableBody_undisturbed (k := 0) (hready.undisturbed hslots) hp
  have hexec : exec .clkdis s = .next (t.setFlags [.done]) := by
    change execClkdis s = _
    rw [execClkdis, whenRunning_of_running hready.1, hbody, Run.andThen_ok, Run.outcome_ok]
  refine ⟨t.setFlags [.done], hexec, hclk, ?_, rfl, ?_⟩
  · rw [State.setFlags_hist, hhist, disableEvents, disableWrites, pllstatWord_enable]
    rfl
  · rw [← hframe.params]
    refine execFreqrb_internal ⟨rfl, rfl⟩ ht.run ht.hang ?_ ?_ ?_ <;> simp [State.feedQuiet, hclk, ClockRegs.disabled]

/-! ### RTCSET -/

/-- t2's word: `CLKEN` = 0, `CCRX` kept (R128). -/
theorem CalendarRegs.ccrWord_stop (c : CalendarRegs) : c.ccrWord &&& 0xFFFFFFFE#32 = c.ccrx ++ 0#1 :=
  calc c.ccrWord &&& 0xFFFFFFFE#32
    _ = (c.ccrx ++ BitVec.ofBool c.clken) &&& (BitVec.allOnes 31 ++ 0#1) := rfl
    _ = (c.ccrx &&& BitVec.allOnes 31) ++ (BitVec.ofBool c.clken &&& 0#1) := BitVec.and_append
    _ = c.ccrx ++ 0#1 := by rw [BitVec.and_allOnes, BitVec.and_zero]

/-- t11's word: `CLKEN` = 1, `CCRX` kept (R128). -/
theorem CalendarRegs.ccrWord_start (c : CalendarRegs) : c.ccrWord ||| 1#32 = c.ccrx ++ 1#1 :=
  calc c.ccrWord ||| 1#32
    _ = (c.ccrx ++ BitVec.ofBool c.clken) ||| (0#31 ++ 1#1) := rfl
    _ = (c.ccrx ||| 0#31) ++ (BitVec.ofBool c.clken ||| 1#1) := BitVec.or_append
    _ = c.ccrx ++ 1#1 := by cases c.clken <;> rw [BitVec.or_zero] <;> rfl

/-- What a write of `CCRX` and of a bit for `CLKEN` leaves (R49). -/
theorem CalendarRegs.put_rtcccr (c : CalendarRegs) (x : BitVec 31) (b : BitVec 1) :
    c.put .rtcccr (x ++ b) = { c with clken := b.getLsbD 0, ccrx := x } := by
  have hen : (x ++ b).getLsbD 0 = b.getLsbD 0 := BitVec.getLsbD_append
  have hccrx : (x ++ b).extractLsb' 1 31 = x := BitVec.extractLsb'_append_eq_left
  exact congrArg₂ (fun en y => { c with clken := en, ccrx := y }) hen hccrx

theorem CalendarRegs.put_clken (c : CalendarRegs) {r : RegId} (h : r ≠ .rtcccr) (v : Word) :
    (c.put r v).clken = c.clken := by
  cases r with
  | rtcccr => exact absurd rfl h
  | _ => rfl

/-- Every write reaches the calendar registers as `put` says, whatever the feed machinery does with it. -/
theorem State.busWrite_rtc (who : Master) (r : RegId) (v : Word) (s : State) :
    (s.busWrite who r v).rtc = s.rtc.put r v := by
  cases r <;> rfl

/-- While `CLKEN` = 0 undisturbed writes of the other registers are all that moves the calendar. -/
theorem State.Undisturbed.slotWrites_stopped {s : State} {k : Nat} {ws : List (RegId × Word)}
    (h : s.Undisturbed (ws.length + k)) (hc : s.rtc.clken = false) (hw : ∀ w ∈ ws, w.1 ≠ .rtcccr) :
    (s.slotWrites ws).rtc = ws.foldl (fun c w => c.put w.1 w.2) s.rtc := by
  induction ws generalizing s with
  | nil => rfl
  | cons w ws ih =>
    have hput : (s.slotWrite w.1 w.2).rtc = s.rtc.put w.1 w.2 := by
      rw [State.slotWrite, State.busWrite_rtc, h.cons.afterSlot_stopped hc]
    have hstop : (s.slotWrite w.1 w.2).rtc.clken = false := by
      rw [hput, CalendarRegs.put_clken _ (hw w List.mem_cons_self), hc]
    have hrest := ih (h.cons.txWrite w.1 w.2).2 hstop fun w' h' => hw w' (List.mem_cons_of_mem _ h')
    rw [hput] at hrest
    exact hrest

/-- t3 to t10 of RTCSET: the eight counters (R128). -/
def counterWrites (t : RtcTime) : List (RegId × Word) :=
  [(.sec, t.sec.setWidth 32), (.min, t.min.setWidth 32), (.hour, t.hour.setWidth 32), (.dow, t.dow.setWidth 32),
   (.dom, t.dom.setWidth 32), (.month, t.month.setWidth 32), (.year, t.year.setWidth 32), (.doy, t.doy.setWidth 32)]

theorem counterWrites_length (t : RtcTime) : (counterWrites t).length = 8 := rfl

/-- RTCSET stops the calendar, writes the counters and starts it (R128). -/
theorem calendarWrites_eq (c : CalendarRegs) (t : RtcTime) :
    calendarWrites c.ccrWord t =
      (.rtcccr, c.ccrx ++ 0#1) :: (counterWrites t ++ [(.rtcccr, c.ccrx ++ 1#1)]) := by
  rw [← c.ccrWord_stop, ← c.ccrWord_start]
  rfl

/-- The eight writes put each field in its own counter. -/
theorem counterWrites_put (c : CalendarRegs) (t : RtcTime) :
    (counterWrites t).foldl (fun c w => c.put w.1 w.2) c = { c with time := t } := by
  have field {n : Nat} (hn : 0 + n ≤ 32) (x : BitVec n) : (x.setWidth 32).extractLsb' 0 n = x := by
    rw [BitVec.extractLsb'_setWidth_of_le hn, BitVec.extractLsb'_eq_self]
  simp [counterWrites, CalendarRegs.put, field]

theorem State.slotWrite_rtcccr (s : State) (x : BitVec 31) (b : BitVec 1) :
    (s.slotWrite .rtcccr (x ++ b)).rtc = { s.afterSlot.rtc with clken := b.getLsbD 0, ccrx := x } := by
  rw [State.slotWrite, State.busWrite_rtc, CalendarRegs.put_rtcccr]

/-- What t2 to t11 of RTCSET leave in the calendar registers: t2 stops the calendar agent, and it has no step again before
t11. -/
theorem State.Undisturbed.slotWrites_calendar {s : State} {k : Nat} (h : s.Undisturbed (9 + k + 1)) (c : CalendarRegs)
    (t : RtcTime) :
    (s.slotWrites (calendarWrites c.ccrWord t)).rtc =
      { time := t, clken := true, ccrx := c.ccrx, tickif := s.afterSlot.rtc.tickif } := by
  have order : s.slotWrites (calendarWrites c.ccrWord t) =
      ((s.slotWrite .rtcccr (c.ccrx ++ 0#1)).slotWrites (counterWrites t)).slotWrite .rtcccr (c.ccrx ++ 1#1) := by
    rw [calendarWrites_eq, State.slotWrites_cons, State.slotWrites_append, State.slotWrites_cons, State.slotWrites_nil]
  have stopped : (s.slotWrite .rtcccr (c.ccrx ++ 0#1)).rtc.clken = false := by
    rw [State.slotWrite_rtcccr]
    rfl
  have h1 : (s.slotWrite .rtcccr (c.ccrx ++ 0#1)).Undisturbed ((counterWrites t).length + (k + 1)) := by
    rw [counterWrites_length, Nat.add_left_comm 8 k 1, Nat.add_comm k 9]
    exact (h.txWrite .rtcccr (c.ccrx ++ 0#1)).2
  have written := h1.slotWrites_stopped stopped (by simp [counterWrites])
  rw [counterWrites_put] at written
  have frozen := h1.txWrites.2.afterSlot_stopped (by rw [written]; exact stopped)
  rw [order, State.slotWrite_rtcccr, frozen, written, State.slotWrite_rtcccr]
  rfl

/-- What the eleven transactions of the calendar write leave (R128). -/
theorem calendarBody_undisturbed {s : State} {k : Nat} (h : s.Undisturbed (10 + k + 1)) :
    ∃ t, calendarBody s = .ok () t ∧ t.Undisturbed k ∧ SameButSlots s t ∧
      t.rtc = { time := s.ts, clken := true, ccrx := s.rtc.ccrx, tickif := t.rtc.tickif } ∧
      t.hist = calendarEvents s.rtc.ccrWord s.ts ++ s.hist := by
  have hword : s.afterSlot.rtc.ccrWord = s.rtc.ccrWord := by
    obtain ⟨hen, hccrx⟩ := h.afterSlot_ccr
    rw [CalendarRegs.ccrWord, hen, hccrx, CalendarRegs.ccrWord]
  obtain ⟨t, hread, ht, hframe, -, -, hhist⟩ :=
    h.txRead_value (r := .rtcccr) (v := s.rtc.ccrWord) (congrArg some hword)
  have ht' : t.Undisturbed ((calendarWrites s.rtc.ccrWord s.ts).length + k) := ht
  obtain ⟨hwrites, hend⟩ := ht'.txWrites
  refine ⟨t.slotWrites (calendarWrites s.rtc.ccrWord s.ts), ?_, hend, hframe.trans ht'.slotWrites_frame,
    ?_, ?_⟩
  · rw [calendarBody, hread, Run.andThen_ok, hwrites]
  · rw [State.Undisturbed.slotWrites_calendar (k := k) (by rwa [Nat.add_right_comm])]
  · rw [ht'.slotWrites_hist, hhist, calendarEvents, List.append_assoc]
    rfl

/-- Settles O33: the calendar write under `NoForeign`. -/
theorem rtcsetPostcondition : Obligations.RtcsetPostcondition := by
  intro s hready hslots hvalid
  obtain ⟨t, hbody, -, hframe, hrtc, hhist⟩ := calendarBody_undisturbed (k := 0) (hready.undisturbed hslots)
  have hexec : exec .rtcset s = .next (t.setFlags [.done, .valid]) := by
    change execRtcset s = _
    rw [execRtcset, whenRunning_of_running hready.1, if_pos hvalid, hbody, Run.andThen_ok, Run.outcome_ok]
  have htime : t.rtc.time = s.ts := by rw [hrtc]
  refine ⟨t.setFlags [.done, .valid], hexec, htime, ?_, ?_, ?_, ?_, hframe.ts, rfl⟩
  · rw [RtcTime.decodeCT_words, State.setFlags_rtc, htime]
  · rw [State.setFlags_rtc, hrtc]
  · rw [State.setFlags_rtc, hrtc]
  · rw [State.setFlags_hist, hhist, List.length_append, Nat.add_comm]
    rfl

end Sys2Proof.Machine
end

section
/-! PROOF. The PLL arithmetic (R155 to R158): the flags of PLLCHK, the fields FREQRB reads back, and the frequency in
kilohertz. -/

namespace Sys2Proof.Machine

open Sys2Proof

/-! ### PLLCHK -/

/-- The STATUS word of PLLCHK from its two tests: VIABLE is their conjunction (R155). -/
theorem statusOf_pllchk (lock cpu : Bool) :
    statusOf (.done :: (flagIf lock .inlock ++ flagIf cpu .cpuok ++ flagIf (lock && cpu) .viable)) =
      if lock && cpu then 0x10E#32 else if lock then 0x104#32 else if cpu then 0x108#32 else 0x100#32 := by
  cases lock <;> cases cpu <;> rfl

/-- Settles O39: while RUN is Running PLLCHK's meaning is that state, its flags in one STATUS word. -/
theorem pllchkTestsTheTriple : Obligations.PllchkTestsTheTriple := by
  intro s hrun f c lock cpu
  calc exec .pllchk s
    _ = .next (({ s with x2 := saturate f, x3 := saturate c } : State).setFlags
          (.done :: (flagIf lock .inlock ++ flagIf cpu .cpuok ++ flagIf (lock && cpu) .viable))) :=
      whenRunning_of_running hrun _
    _ = _ := by rw [State.setFlags, statusOf_pllchk]; rfl

/-! ### Frequencies -/

theorem saturate_toNat_of_le {f : Nat} (h : f ≤ 2 ^ 32 - 1) : (saturate f).toNat = f := by
  have hmin : Nat.min f (2 ^ 32 - 1) = f := Nat.min_eq_left h
  rw [saturate, hmin, BitVec.toNat_ofNat]
  omega

/-- R15's two truncating divisions are one. -/
theorem fcpu_eq_div (m n d f : Nat) : fcpu m n d f = 2 * (m + 1) * f / ((n + 1) * (d + 1)) :=
  Nat.div_div_eq_div_mul _ _ _

/-- R158: truncating the exact frequency in hertz to kilohertz gives the frequency computed in kilohertz, since the three
divisions are one by the product of the divisors. -/
theorem fcpu_hz_div (m n d khz : Nat) : fcpu m n d (1000 * khz) / 1000 = fcpu m n d khz := by
  calc fcpu m n d (1000 * khz) / 1000
    _ = 2 * (m + 1) * (1000 * khz) / ((n + 1) * (d + 1) * 1000) := by rw [fcpu_eq_div, Nat.div_div_eq_div_mul]
    _ = 2 * (m + 1) * khz * 1000 / ((n + 1) * (d + 1) * 1000) := by congr 1; ring
    _ = fcpu m n d khz := by rw [Nat.mul_div_mul_right _ _ (by decide), fcpu_eq_div]

/-! ### The fields FREQRB reads back -/

/-- A field that the parameter width leaves alone has no bits above that width (R22, R36, R45). -/
theorem toNat_mod_of_keepLow {n k : Nat} {v : BitVec n} (h : keepLow k v = v) : v.toNat % 2 ^ k = v.toNat := by
  have hlt : v.toNat % 2 ^ k < 2 ^ n := (Nat.mod_le _ _).trans_lt v.isLt
  calc v.toNat % 2 ^ k
    _ = (keepLow k v).toNat := by rw [keepLow, BitVec.toNat_ofNat, Nat.mod_eq_of_lt hlt]
    _ = v.toNat := by rw [h]

/-- What stands above a field is not among its low bits. -/
theorem add_mul_two_pow_mod {k w : Nat} (hk : k ≤ w) (a b : Nat) : (a + 2 ^ w * b) % 2 ^ k = a % 2 ^ k := by
  obtain ⟨c, hc⟩ := (Nat.pow_dvd_pow 2 hk).mul_right b
  rw [hc, Nat.add_mul_mod_self_left]

theorem lowField_pllstatWord {k : Nat} (hk : k ≤ 16) (con : BitVec 2) (c : PllCfg) :
    lowField k (pllstatWord con c) = c.m.toNat % 2 ^ k := by
  have hword : (pllstatWord con c).toNat = c.m.toNat + 2 ^ 16 * (c.n.toNat + 2 ^ 8 * con.toNat) := by
    rw [pllstatWord_toNat]
    omega
  rw [lowField, hword, add_mul_two_pow_mod hk]

theorem midField_pllstatWord {k : Nat} (hk : k ≤ 8) (con : BitVec 2) (c : PllCfg) :
    midField k (pllstatWord con c) = c.n.toNat % 2 ^ k := by
  have hshift : (pllstatWord con c).toNat / 2 ^ 16 = c.n.toNat + 2 ^ 8 * con.toNat := by
    rw [pllstatWord_toNat]
    omega
  rw [midField, hshift, add_mul_two_pow_mod hk]

theorem lowField_setWidth (k : Nat) (d : BitVec 8) : lowField k (d.setWidth 32) = d.toNat % 2 ^ k := by
  rw [lowField, BitVec.toNat_setWidth_of_le (by decide)]

/-- From the words of PLLSTAT and CCLKCFG, FREQRB reconstructs the frequency of the live fields (R157). -/
theorem readbackHz_live {s : State} (hi : s.Inv) (hw : s.params.widthsOk) (con : BitVec 2) (base : Nat) :
    readbackHz s.params base (pllstatWord con s.clk.pllcfgLive) (some (s.clk.cclkcfg.setWidth 32)) =
      fcpu s.clk.pllcfgLive.m.toNat s.clk.pllcfgLive.n.toNat s.clk.cclkcfg.toNat base := by
  obtain ⟨⟨-, hm⟩, ⟨-, hn⟩, -⟩ := hw
  have hfitM : keepLow s.params.mBits s.clk.pllcfgLive.m = s.clk.pllcfgLive.m := congrArg PllCfg.m hi.config
  have hfitN : keepLow s.params.nBits s.clk.pllcfgLive.n = s.clk.pllcfgLive.n := congrArg PllCfg.n hi.config
  rw [readbackHz, lowField_pllstatWord hm, midField_pllstatWord hn, lowField_setWidth, toNat_mod_of_keepLow hfitM,
    toNat_mod_of_keepLow hfitN, toNat_mod_of_keepLow hi.divider]

/-! ### FREQRB -/

/-- A read changes no register's readable word, whatever is pending (R52). -/
theorem State.readView_after_busRead (who : Master) (r : RegId) (s : State) :
    readView (s.busRead who r).2.clk (s.busRead who r).2.rtc = readView s.clk s.rtc := by
  have hlive := s.clk.intervene_live s.draws
  rw [State.busRead_clk, State.busRead_rtc]
  funext r'
  cases r' <;> simp only [readView, hlive]

/-- A read that nothing disturbs, whatever is pending: the register's readable word, and the readable words as before. -/
theorem txRead_quiet_value {s : State} (hq : s.quiet) (hr : s.run = .running) (ht : s.tickHang = none) {r : RegId}
    {v : Word} (hv : readView s.clk s.rtc r = some v) :
    ∃ t, txRead r s = .ok v t ∧ SameButBus s t ∧ readView t.clk t.rtc = readView s.clk s.rtc := by
  refine ⟨(s.busRead .block r).2, ?_, s.busRead_frame .block r, s.readView_after_busRead .block r⟩
  rw [txRead_quiet hq hr ht, State.busRead_value hv]

/-- Bit 25 of PLLSTAT is PLLC (R37). -/
theorem pllstatWord_connect (con : BitVec 2) (c : PllCfg) : (pllstatWord con c).getLsbD 25 = con.getLsbD 1 := by
  simp only [pllstatWord, BitVec.getLsbD_append]
  rfl

theorem State.readbackDone_x2 {s : State} {sel : Word} {base : Nat}
    (h : srcHz s.params (sel.extractLsb' 0 2) = some base) (stat : Word) (cc : Option Word) :
    (s.readbackDone sel stat cc).x2 = saturate (readbackHz s.params base stat cc) := by
  rw [State.readbackDone, h]
  rfl

/-- FREQRB that nothing disturbs, with the PLL enabled and connected: A2 takes the saturated frequency of the live fields,
whatever is pending (R157). -/
theorem execFreqrb_connected {s : State} {base : Nat} (hq : s.quiet) (hr : s.run = .running) (ht : s.tickHang = none)
    (hi : s.Inv) (hw : s.params.widthsOk) (hcon : s.clk.pllconLive = 3#2)
    (hsrc : srcHz s.params s.clk.clksrcsel = some base) :
    ∃ u, execFreqrb s = .next u ∧
      u.x2 = saturate (fcpu s.clk.pllcfgLive.m.toNat s.clk.pllcfgLive.n.toNat s.clk.cclkcfg.toNat base) := by
  let sel : Word := s.clk.clksrcsel.setWidth 32
  let stat : Word := pllstatWord s.clk.pllconLive s.clk.pllcfgLive
  let cc : Word := s.clk.cclkcfg.setWidth 32
  obtain ⟨t₁, readSel, hb₁, hv₁⟩ := txRead_quiet_value (r := .clksrcsel) (v := sel) hq hr ht rfl
  obtain ⟨t₂, readStat, hb₂, hv₂⟩ := txRead_quiet_value (r := .pllstat) (v := stat) (hb₁.quiet hq) (hb₁.run.trans hr)
    (hb₁.tickHang.trans ht) (by rw [hv₁]; rfl)
  have hb₁₂ : SameButBus s t₂ := hb₁.trans hb₂
  obtain ⟨t₃, readCc, hb₃, -⟩ := txRead_quiet_value (r := .cclkcfg) (v := cc) (hb₁₂.quiet hq) (hb₁₂.run.trans hr)
    (hb₁₂.tickHang.trans ht) (by rw [hv₂, hv₁]; rfl)
  have hparams : t₃.params = s.params := (hb₁₂.trans hb₃).slots.params
  have hon : (stat.getLsbD 24 && stat.getLsbD 25) = true := by
    rw [pllstatWord_enable, pllstatWord_connect, hcon]
    rfl
  have hsel : sel.extractLsb' 0 2 = s.clk.clksrcsel := by
    rw [← BitVec.toNat_inj, toNat_extractLsb'_eq, BitVec.toNat_setWidth_of_le (by decide)]
    omega
  refine ⟨t₃.readbackDone sel stat (some cc), ?_, ?_⟩
  · rw [execFreqrb, whenRunning_of_running hr, readSel, Run.andThen_ok, readStat, Run.andThen_ok, if_pos hon, readCc,
      Run.andThen_ok, Run.outcome_ok]
  · rw [State.readbackDone_x2 (base := base) (by rw [hsel, hparams, hsrc]), hparams, readbackHz_live hi hw]

/-- Settles O41: the readback is the exact frequency in hertz, which in kilohertz is the one the search computes. -/
theorem searchAndReadbackRoundTrip : Obligations.SearchAndReadbackRoundTrip := by
  rintro s t khz ⟨hrun, -, hhang⟩ hquiet hinv ⟨hwidths, -⟩ hcon hsrc hexec cpu hle
  obtain ⟨u, hu, hx2⟩ := execFreqrb_connected hquiet hrun hhang hinv hwidths hcon hsrc
  have htu : t = u := Host.Outcome.next.inj (hexec.symm.trans hu)
  calc t.x2.toNat / 1000
    _ = (saturate (cpu (1000 * khz))).toNat / 1000 := by rw [htu, hx2]; rfl
    _ = cpu (1000 * khz) / 1000 := by rw [saturate_toNat_of_le hle]
    _ = cpu khz := fcpu_hz_div _ _ _ khz

end Sys2Proof.Machine
end

section
/-! PROOF. The calendar value: its validity, the default epoch, RTCVAL, and when each of the eight field setters takes its
value (R181 to R194). -/

namespace Sys2Proof.Machine

open Sys2Proof

/-! ### Validity and the day counts -/

/-- A day fits a month that has a length, and that length bounds it (R181, I20). -/
theorem fitsMonth_iff {P : Params} {d mo : Nat} {y : BitVec 16} :
    fitsMonth P d mo y = true ↔ ∃ k, daysInMonth P mo y = some k ∧ d ≤ k := by
  unfold fitsMonth
  cases daysInMonth P mo y with
  | none => simp
  | some k => simp

/-- Only the months 1 to 12 have a length (R16). -/
theorem month_mem_of_daysInMonth {P : Params} {mo k : Nat} {y : BitVec 16} (h : daysInMonth P mo y = some k) :
    1 ≤ mo ∧ mo ≤ 12 := by
  unfold daysInMonth at h
  split at h <;> cases h <;> omega

theorem le_daysInYear (P : Params) (y : BitVec 16) : 365 ≤ daysInYear P y := by
  unfold daysInYear
  split <;> decide

/-- R181's conjuncts. -/
theorem RtcTime.valid_iff {P : Params} {t : RtcTime} :
    t.valid P = true ↔
      t.sec.toNat ≤ 59 ∧ t.min.toNat ≤ 59 ∧ t.hour.toNat ≤ 23 ∧ t.dow.toNat ≤ 6 ∧
      (1 ≤ t.month.toNat ∧ t.month.toNat ≤ 12) ∧ 1 ≤ t.dom.toNat ∧
      (∃ k, daysInMonth P t.month.toNat t.year = some k ∧ t.dom.toNat ≤ k) ∧
      1 ≤ t.doy.toNat ∧ t.doy.toNat ≤ daysInYear P t.year := by
  simp only [RtcTime.valid, Bool.and_eq_true, decide_eq_true_eq, fitsMonth_iff, and_assoc]

/-! ### TSDEF and RTCVAL -/

/-- The epoch is valid whatever the leap rule: January has 31 days and every year has a first day (R183). -/
theorem epoch_valid {P : Params} (h : P.epochDow.toNat ≤ 6) : (epoch P).valid P = true := by
  have hdoy : 1 ≤ daysInYear P 1970#16 := le_trans (by decide) (le_daysInYear P _)
  simp only [RtcTime.valid_iff, epoch]
  exact ⟨by decide, by decide, by decide, h, by decide, by decide, ⟨31, rfl, by decide⟩, by decide, hdoy⟩

/-- The epoch's CT0 holds the day of week alone, at bit 24 (R48, R183). -/
theorem epoch_ct0 (P : Params) : (epoch P).ct0 = P.epochDow.setWidth 32 <<< 24 := by
  have hdow : P.epochDow.toNat < 8 := P.epochDow.isLt
  refine BitVec.eq_of_toNat_eq ?_
  rw [RtcTime.ct0_toNat, BitVec.toNat_shiftLeft, BitVec.toNat_setWidth, Nat.shiftLeft_eq]
  simp only [epoch, BitVec.toNat_ofNat]
  omega

theorem epoch_ct1 (P : Params) : (epoch P).ct1 = 0x07B20101#32 := by
  refine BitVec.eq_of_toNat_eq ?_
  rw [RtcTime.ct1_toNat]
  simp only [epoch, BitVec.toNat_ofNat]
  decide

theorem epoch_ct2 (P : Params) : (epoch P).ct2 = 0x00000001#32 := by
  refine BitVec.eq_of_toNat_eq ?_
  rw [RtcTime.ct2_toNat]
  simp only [epoch, BitVec.toNat_ofNat]

/-- Settles O47. -/
theorem tsdefLoadsTheEpoch : Obligations.TsdefLoadsTheEpoch := by
  intro s hrun
  have hwords : (epoch s.params).words = ⟨s.params.epochDow.setWidth 32 <<< 24, 0x07B20101#32, 0x00000001#32⟩ := by
    rw [RtcTime.words, epoch_ct0, epoch_ct1, epoch_ct2]
  exact ⟨whenRunning_of_running hrun _, epoch_valid, hwords⟩

/-- The STATUS word of a command that reports a validity (R184). -/
theorem statusOf_done_valid (p : Bool) :
    statusOf (.done :: flagIf p .valid) = if p then 0x110#32 else 0x100#32 := by
  cases p <;> rfl

/-- Settles O48. -/
theorem rtcvalTestsTheTime : Obligations.RtcvalTestsTheTime := by
  intro s hrun
  calc exec .rtcval s
    _ = .next (s.setFlags (.done :: flagIf (s.ts.valid s.params) .valid)) := whenRunning_of_running hrun _
    _ = _ := by rw [State.setFlags, statusOf_done_valid]

/-! ### The setters -/

/-- What a setter does while RUN is Running, by the condition `p` that its verdict tests: TS takes the new value with `DONE`,
or only STATUS changes, to `DONE` and `REJECT` (R187 to R194). -/
theorem setField_of_running {s : State} (hrun : s.run = .running) {ok : Bool} {p : Prop} [Decidable p]
    (hok : ok = true ↔ p) (t : RtcTime) :
    setField ok t s = .next (if p then { s with ts := t, status := 0x100#32 } else { s with status := 0x120#32 }) := by
  rw [setField, whenRunning_of_running hrun]
  by_cases hp : p
  · rw [if_pos hp, if_pos (hok.2 hp)]
    rfl
  · rw [if_neg hp, if_neg (mt hok.1 hp)]
    rfl

/-- Settles O52: each verdict is the comparison with the field's largest value. -/
theorem rangeSettersTakeOrRefuse : Obligations.RangeSettersTakeOrRefuse := by
  intro s v hrun
  simp only [BitVec.ofNat_toNat]
  exact ⟨setField_of_running hrun decide_eq_true_iff _, setField_of_running hrun decide_eq_true_iff _,
    setField_of_running hrun decide_eq_true_iff _, setField_of_running hrun decide_eq_true_iff _⟩

/-- Settles O53: the month has a length, and that length bounds the day. -/
theorem dayAndMonthSettersCheckSiblings : Obligations.DayAndMonthSettersCheckSiblings := by
  intro s v hrun
  simp only [BitVec.ofNat_toNat]
  refine ⟨setField_of_running hrun ?dom _, setField_of_running hrun ?mon _⟩
  case dom => rw [Bool.and_eq_true, decide_eq_true_iff, fitsMonth_iff]
  case mon => rw [Bool.and_eq_true, decide_eq_true_iff, fitsMonth_iff, and_assoc]

/-- Settles O54: SETYEAR's own test of the month adds nothing, since a month outside 1 to 12 has no length. -/
theorem yearSettersCheckSiblings : Obligations.YearSettersCheckSiblings := by
  intro s v hrun
  simp only [BitVec.ofNat_toNat]
  refine ⟨setField_of_running hrun ?year _, setField_of_running hrun decide_eq_true_iff _⟩
  case year =>
    have hmonth : (∃ k, daysInMonth s.params s.ts.month.toNat v = some k ∧ s.ts.dom.toNat ≤ k) →
        1 ≤ s.ts.month.toNat ∧ s.ts.month.toNat ≤ 12 := fun ⟨_, hk, _⟩ => month_mem_of_daysInMonth hk
    rw [Bool.and_eq_true, Bool.and_eq_true, decide_eq_true_iff, decide_eq_true_iff, fitsMonth_iff,
      and_iff_right_of_imp hmonth]

end Sys2Proof.Machine
end

section
/-! PROOF. What a run of the machine can do, said once: a property that the slots of the other agents, the block's
transactions and its own registers keep is kept by every command and by every step (R80, R210). -/

namespace Sys2Proof.Machine

open Sys2Proof

/-! ### The ways a command's part can end -/

/-- However the run ends: with a value and a state that `G` allows, cut in a state that `X` allows, or, only if `S`,
stopped. -/
def Run.Ends {α : Type} (G : α → State → Prop) (X : State → Prop) (S : Prop) : Run α → Prop
  | .ok a s => G a s
  | .cut s => X s
  | .stop _ => S

/-- The same of a step's outcome. -/
def Leads (E : State → Prop) (S : Prop) : Host.Outcome State Fault Refusal → Prop
  | .next t => E t
  | .fault _ => S
  | .refused _ => False

section
variable {α β : Type} {G G' : α → State → Prop} {H : β → State → Prop} {X E : State → Prop} {S : Prop} {r : Run α}

theorem Run.Ends.andThen {k : α → State → Run β} (h : r.Ends G X S) (hk : ∀ a t, G a t → (k a t).Ends H X S) :
    (r.andThen k).Ends H X S := by
  cases r with
  | ok a t => exact hk a t h
  | cut t => exact h
  | stop f => exact h

theorem Run.Ends.imp (h : r.Ends G X S) (hG : ∀ a t, G a t → G' a t) : r.Ends G' X S := by
  cases r with
  | ok a t => exact hG a t h
  | cut t => exact h
  | stop f => exact h

theorem Run.Ends.outcome {r : Run Unit} (h : r.Ends (fun _ => E) X S) (hX : ∀ t, X t → E t) : Leads E S r.outcome := by
  cases r with
  | ok a t => exact h
  | cut t => exact hX t h
  | stop f => exact h

theorem Leads.next {o : Host.Outcome State Fault Refusal} {t : State} (h : Leads E S o) (ho : o = .next t) : E t := by
  rw [ho] at h
  exact h

theorem Leads.exists_next {o : Host.Outcome State Fault Refusal} (h : Leads E False o) : ∃ t, o = .next t ∧ E t := by
  cases o with
  | next t => exact ⟨t, rfl, h⟩
  | fault f => exact h.elim
  | refused f => exact h.elim

end

/-! ### What is kept -/

/-- `C` holds, and a command can go on. -/
structure Live (C : State → Prop) (s : State) : Prop where
  holds : C s
  run : s.run = .running
  hang : s.tickHang = none

/-- The block writes its own registers, or the host's queue, the history and the draw index move on: PR within its widths
(R22) and STATUS one of its words (R26). -/
structure OwnUpdate (s t : State) : Prop where
  eq : t = { s with
    x0 := t.x0, x1 := t.x1, x2 := t.x2, x3 := t.x3, pr := t.pr, ts := t.ts, cs := t.cs, status := t.status,
    booted := t.booted, host := t.host, rdata := t.rdata, hist := t.hist, draws := t.draws }
  triple : t.pr = s.pr ∨ t.pr.fit s.params = t.pr
  status : t.status = s.status ∨ t.status ∈ statusWords

/-- `C` is kept by the parts of a command, which leaves `X` where another agent cuts it. -/
structure Keeps (C X : State → Prop) : Prop where
  pass : ∀ {s : State}, C s → (pass s).Ends (fun _ => Live C) X False
  read : ∀ {s : State} (r : RegId), Live C s → C (s.busRead .block r).2
  write : ∀ {s : State} (r : RegId) (v : Word), Live C s → C (s.busWrite .block r v)
  own : ∀ {s t : State}, OwnUpdate s t → C s → C t

/-- `C` is kept by BOOT's writes of the stack pointers and of memory (R130). -/
structure KeepsBoot (C : State → Prop) : Prop where
  setStacks : ∀ {s : State}, C s → C s.setStacks
  store : ∀ {s : State} {a : Nat} (b : Byte), a < 2 ^ 32 → C s → C { s with mem := Memory.write s.mem a b }

theorem OwnUpdate.flags (s : State) {fs : List Flag} (h : statusOf fs ∈ statusWords) : OwnUpdate s (s.setFlags fs) :=
  ⟨rfl, .inl rfl, .inr h⟩

theorem OwnUpdate.log (s : State) (e : BusEvent) : OwnUpdate s (s.log e) := ⟨rfl, .inl rfl, .inl rfl⟩

/-! ### Transactions and sequences -/

section
variable {C X : State → Prop} {S : Prop} (hK : Keeps C X) {s : State}
include hK

theorem Keeps.txPass (h : C s) : (Machine.pass s).Ends (fun _ => Live C) X S := by
  have hp := hK.pass h
  cases hr : Machine.pass s with
  | ok a t => rw [hr] at hp; exact hp
  | cut t => rw [hr] at hp; exact hp
  | stop f => rw [hr] at hp; exact hp.elim

theorem Keeps.txRead (r : RegId) (h : C s) : (Machine.txRead r s).Ends (fun _ => Live C) X S :=
  (hK.txPass h).andThen fun _ t ht =>
    have hf := t.busRead_frame .block r
    ⟨hK.read r ht, hf.run.trans ht.run, hf.tickHang.trans ht.hang⟩

theorem Keeps.txWrite (r : RegId) (v : Word) (h : C s) : (Machine.txWrite r v s).Ends (fun _ => C) X S :=
  (hK.txPass h).andThen fun _ _ ht => hK.write r v ht

theorem Keeps.txWrites (ws : List (RegId × Word)) (h : C s) : (Machine.txWrites ws s).Ends (fun _ => C) X S := by
  induction ws generalizing s with
  | nil => exact h
  | cons w ws ih => exact (hK.txWrite w.1 w.2 h).andThen fun _ _ => ih

theorem Keeps.disableBody (h : C s) : (Machine.disableBody s).Ends (fun _ => C) X S :=
  (hK.txRead _ h).andThen fun _ _ ht => hK.txWrites _ ht.holds

theorem Keeps.calendarBody (h : C s) : (Machine.calendarBody s).Ends (fun _ => C) X S :=
  (hK.txRead _ h).andThen fun _ _ ht => hK.txWrites _ ht.holds

theorem Keeps.fullRead (h : C s) : (Machine.fullRead s).Ends (fun _ => Live C) X S :=
  (hK.txRead _ h).andThen fun _ _ h1 => (hK.txRead _ h1.holds).andThen fun _ _ h2 =>
    (hK.txRead _ h2.holds).andThen fun _ _ h3 => h3

theorem Keeps.readRound (h : C s) : (Machine.readRound s).Ends (fun _ => Live C) X S :=
  (hK.fullRead h).andThen fun _ _ h1 => (hK.fullRead h1.holds).andThen fun _ _ h2 => h2

theorem Keeps.validateBody (h : C s) :
    (Machine.validateBody s).Ends (fun f t => C t ∧ (f = .valid ∨ f = .replaced)) X S := by
  unfold Machine.validateBody
  split
  · exact ⟨h, .inl rfl⟩
  · have hts : OwnUpdate s { s with ts := epoch s.params } := ⟨rfl, .inl rfl, .inl rfl⟩
    exact (hK.calendarBody (hK.own hts h)).andThen fun _ _ ht => ⟨ht, .inr rfl⟩

theorem Keeps.copyBytes (hB : KeepsBoot C) (n src dst : Nat) (hS : S ∨ (src + n ≤ 2 ^ 32 ∧ dst + n ≤ 2 ^ 32)) (h : C s) :
    (Machine.copyBytes n src dst s).Ends (fun _ => C) X S := by
  induction n generalizing src dst s with
  | zero => exact h
  | succ n ih =>
    refine Run.Ends.andThen (G := fun _ => C) ((hK.txPass h).andThen fun _ t ht => ?read) fun b t ht =>
      Run.Ends.andThen (G := fun _ => C) ((hK.txPass ht).andThen fun _ u hu => ?write) fun _ u hu =>
        ih _ _ (hS.imp_right fun ⟨h1, h2⟩ => by omega) hu
    case read =>
      split
      · exact hK.own (.log t _) ht.holds
      · exact hS.resolve_right fun ⟨h1, _⟩ => by omega
    case write =>
      split
      · next ha => exact hK.own (.log _ _) (hB.store b ha hu.holds)
      · exact hS.resolve_right fun ⟨_, h2⟩ => by omega

theorem Keeps.zeroBytes (hB : KeepsBoot C) (n a : Nat) (hS : S ∨ a + n ≤ 2 ^ 32) (h : C s) :
    (Machine.zeroBytes n a s).Ends (fun _ => C) X S := by
  induction n generalizing a s with
  | zero => exact h
  | succ n ih =>
    refine Run.Ends.andThen (G := fun _ => C) ((hK.txPass h).andThen fun _ t ht => ?write) fun _ t ht =>
      ih _ (hS.imp_right fun h1 => by omega) ht
    case write =>
      split
      · next ha => exact hK.own (.log _ _) (hB.store _ ha ht.holds)
      · exact hS.resolve_right fun h1 => by omega

/-- BOOT's memory phase stops only under a parameter set that R76 excludes. -/
theorem Keeps.memoryBody (hB : KeepsBoot C) (hS : S ∨ (s.params.regionsOk ∧ s.params.imageOk)) (h : C s) :
    (Machine.memoryBody s).Ends (fun _ => C) X S := by
  have hdata := s.params.sEdata.isLt
  have hbss := s.params.sEbss.isLt
  refine (hK.copyBytes hB _ _ _ (hS.imp_right ?_) (hB.setStacks h)).andThen fun _ t ht =>
    hK.zeroBytes hB _ _ (hS.imp_right ?_) ht
  · rintro ⟨⟨h1, h2⟩, h3⟩
    exact ⟨h3, by omega⟩
  · rintro ⟨⟨h1, h2⟩, h3⟩
    omega

end

/-! ### Commands -/

/-- How a command ends: with DONE, refused, cut by another agent, or, only if a round of the tear-free read can fail (`F`),
in flight. -/
inductive Ended (C X : State → Prop) (F : Prop) : State → Prop
  | done {u : State} {fs : List Flag} (hu : C u) (hfs : statusOf (.done :: fs) ∈ statusWords) :
      Ended C X F (u.setFlags (.done :: fs))
  | refused {u : State} (hu : C u) : Ended C X F u.illegal
  | cut {u : State} (hu : X u) : Ended C X F u
  | flight {u : State} (c : InFlight) (hF : F) (hu : Live C u) : Ended C X F { u with inflight := some c }

/-- The rounds of the tear-free read from states with `C`; one that fails makes `F` true. -/
def Rounds (C X : State → Prop) (F : Prop) : Prop :=
  ∀ s, C s → (readRound s).Ends (fun r t => Live C t ∧ (r = none → F)) X False

theorem statusOf_done_valid_mem (p : Bool) : statusOf (.done :: flagIf p .valid) ∈ statusWords := by
  cases p <;> decide

theorem statusOf_validate_mem {f : Flag} (h : f = .valid ∨ f = .replaced) : statusOf [.done, f] ∈ statusWords := by
  obtain rfl | rfl := h <;> decide

theorem statusOf_pllchk_mem (lock cpu : Bool) :
    statusOf (.done :: (flagIf lock .inlock ++ flagIf cpu .cpuok ++ flagIf (lock && cpu) .viable)) ∈ statusWords := by
  rw [statusOf_pllchk]
  cases lock <;> cases cpu <;> decide

theorem keepLow_keepLow {n : Nat} (k : Nat) (v : BitVec n) : keepLow k (keepLow k v) = keepLow k v := by
  apply BitVec.eq_of_getLsbD_eq
  intro i hi
  simp only [keepLow, BitVec.getLsbD_ofNat, Nat.testBit_mod_two_pow, BitVec.testBit_toNat, hi, decide_true,
    Bool.true_and]
  cases decide (i < k) <;> simp

theorem PllTriple.fit_fit (P : Params) (t : PllTriple) : (t.fit P).fit P = t.fit P := by
  simp only [PllTriple.fit, keepLow_keepLow]

theorem PllCfg.fit_fit (P : Params) (c : PllCfg) : (c.fit P).fit P = c.fit P := by
  simp only [PllCfg.fit, keepLow_keepLow]

section
variable {C X : State → Prop} {S F : Prop} (hK : Keeps C X) {s : State}

theorem Run.Ends.ended {r : Run Unit} (h : r.Ends (fun _ => Ended C X F) X S) : Leads (Ended C X F) S r.outcome :=
  h.outcome fun _ ht => .cut ht

theorem Leads.whenRunning {body : Host.Outcome State Fault Refusal} (h : C s) (hb : Leads (Ended C X F) S body) :
    Leads (Ended C X F) S (whenRunning s body) := by
  unfold Machine.whenRunning
  split
  · exact hb
  · exact .refused h

include hK

theorem Keeps.finishRead (c : InFlight) (h : C s) : (Machine.finishRead c s).Ends (fun _ => Ended C X F) X S := by
  cases c with
  | rtcread => exact .done h (statusOf_done_valid_mem _)
  | rtcinit => exact (hK.validateBody h).andThen fun f t ⟨ht, hf⟩ => .done ht (statusOf_validate_mem hf)
  | boot =>
    exact (hK.validateBody h).andThen fun f t ⟨ht, hf⟩ => (hK.disableBody ht).andThen fun _ u hu =>
      .done (hK.own (t := { u with booted := true }) ⟨rfl, .inl rfl, .inl rfl⟩ hu) (statusOf_validate_mem hf)

theorem Keeps.readLoop (hR : Rounds C X F) (c : InFlight) (h : C s) :
    (Machine.readLoop c s).Ends (fun _ => Ended C X F) X S := by
  have hround : (Machine.readRound s).Ends (fun r t => Live C t ∧ (r = none → F)) X S := by
    have hr := hR s h
    cases hs : Machine.readRound s with
    | ok a t => rw [hs] at hr; exact hr
    | cut t => rw [hs] at hr; exact hr
    | stop f => rw [hs] at hr; exact hr.elim
  refine hround.andThen fun r t ⟨ht, hF⟩ => ?_
  cases r with
  | none => exact .flight c (hF rfl) ht
  | some w => exact hK.finishRead c (hK.own (t := t.captured w) ⟨rfl, .inl rfl, .inl rfl⟩ ht.holds)

theorem Keeps.setField (ok : Bool) (t : RtcTime) (h : C s) : Leads (Ended C X F) S (Machine.setField ok t s) := by
  refine Leads.whenRunning h ?_
  split
  · exact .done (hK.own (t := { s with ts := t }) ⟨rfl, .inl rfl, .inl rfl⟩ h) (by decide)
  · exact .done (fs := [.reject]) h (by decide)

theorem Keeps.execPllsrch (h : C s) : Leads (Ended C X F) S (Machine.execPllsrch s) := by
  have found (m n d inp : Nat) : OwnUpdate s (s.foundTriple m n d inp) :=
    ⟨rfl, .inr (PllTriple.fit_fit _ _), .inl rfl⟩
  refine Leads.whenRunning h ?_
  split
  · exact .done (hK.own (found ..) h) (by decide)
  · exact .done (hK.own (found ..) h) (by decide)
  · exact .done (hK.own (t := s.drawnTriple) ⟨rfl, .inr (PllTriple.fit_fit _ _), .inl rfl⟩ h) (by decide)

/-- The end of FREQRB writes A2 and, for the reserved selector, draws (R157). -/
theorem Keeps.readbackDone (sel stat : Word) (cc : Option Word) (h : C s) : Ended C X F (s.readbackDone sel stat cc) := by
  unfold State.readbackDone
  split
  · exact .done (hK.own ⟨rfl, .inl rfl, .inl rfl⟩ h) (by decide)
  · exact .done (hK.own ⟨rfl, .inl rfl, .inl rfl⟩ h) (by decide)

theorem Keeps.execFreqrb (h : C s) : Leads (Ended C X F) S (Machine.execFreqrb s) := by
  refine Leads.whenRunning h (Run.Ends.ended ?_)
  refine (hK.txRead _ h).andThen fun sel t ht => (hK.txRead _ ht.holds).andThen fun stat t ht => ?_
  split
  · exact (hK.txRead _ ht.holds).andThen fun cc t ht => hK.readbackDone _ _ _ ht.holds
  · exact hK.readbackDone _ _ _ ht.holds

theorem Keeps.execRtcset (h : C s) : Leads (Ended C X F) S (Machine.execRtcset s) := by
  refine Leads.whenRunning h ?_
  split
  · exact Run.Ends.ended ((hK.calendarBody h).andThen fun _ t ht => .done ht (by decide))
  · exact .done (fs := [.reject]) h (by decide)

theorem Keeps.execBoot (hR : Rounds C X F) (hB : KeepsBoot C) (hS : S ∨ (s.params.regionsOk ∧ s.params.imageOk))
    (h : C s) : Leads (Ended C X F) S (Machine.execBoot s) := by
  refine Leads.whenRunning h ?_
  split
  · exact .refused h
  · exact Run.Ends.ended ((hK.memoryBody hB hS h).andThen fun _ t ht => hK.readLoop hR .boot ht)

/-- Everything a command can do to a property that its parts keep. -/
theorem Keeps.exec (hR : Rounds C X F) (i : Instr)
    (hB : i = .boot → KeepsBoot C ∧ (S ∨ (s.params.regionsOk ∧ s.params.imageOk))) (h : C s) :
    Leads (Ended C X F) S (exec i s) := by
  cases i with
  | regrd r =>
    refine Leads.whenRunning h (Run.Ends.ended ((hK.txRead r h).andThen fun v t ht => ?_))
    exact .done (hK.own (t := { t with x0 := v }) ⟨rfl, .inl rfl, .inl rfl⟩ ht.holds) (by decide)
  | regwr r =>
    exact Leads.whenRunning h (Run.Ends.ended ((hK.txWrite r _ h).andThen fun _ t ht => .done ht (by decide)))
  | feed =>
    exact Leads.whenRunning h (Run.Ends.ended ((hK.txWrites _ h).andThen fun _ t ht => .done ht (by decide)))
  | barrier => exact Leads.whenRunning h (.done (hK.own (.log s .barrier) h) (by decide))
  | clkdis =>
    exact Leads.whenRunning h (Run.Ends.ended ((hK.disableBody h).andThen fun _ t ht => .done ht (by decide)))
  | rtcset => exact hK.execRtcset h
  | boot => exact hK.execBoot hR (hB rfl).1 (hB rfl).2 h
  | pllsrch => exact hK.execPllsrch h
  | pllchk =>
    exact Leads.whenRunning h (.done (hK.own ⟨rfl, .inl rfl, .inl rfl⟩ h) (statusOf_pllchk_mem _ _))
  | freqrb => exact hK.execFreqrb h
  | rtcread => exact Leads.whenRunning h (Run.Ends.ended (hK.readLoop hR _ h))
  | tsdef => exact Leads.whenRunning h (.done (hK.own ⟨rfl, .inl rfl, .inl rfl⟩ h) (by decide))
  | rtcval => exact Leads.whenRunning h (.done h (statusOf_done_valid_mem _))
  | rtcinit => exact Leads.whenRunning h (Run.Ends.ended (hK.readLoop hR _ h))
  | setsec v | setmin v | sethour v | setdow v | setdom v | setmon v | setyear v | setdoy v => exact hK.setField _ _ h

end

end Sys2Proof.Machine
end

section
/-! PROOF. What every step keeps: the invariant, the order of the run states, the mark `refused`, and memory (R44, R216,
R218, R245). -/

namespace Sys2Proof.Machine

open Sys2Proof

/-- A hung tick handler runs again (R214). -/
theorem betweenCommands_hang {s : State} {wd : WatchdogFeed} (h : s.afterSlot.tickHang = some wd) :
    betweenCommands s = .next (s.afterSlot.tickAgain wd) := by
  unfold State.afterSlot at h ⊢
  simp only [betweenCommands, h]

theorem betweenCommands_idle {s : State} (h : s.afterSlot.tickHang = none) (hhost : s.afterSlot.host = []) :
    betweenCommands s = .next s.afterSlot := by
  unfold State.afterSlot at h hhost ⊢
  simp only [betweenCommands, h, hhost]

/-- After the slot the host makes its next access (R100). -/
theorem betweenCommands_access {s : State} {a : HostAct} {rest : List HostAct} (h : s.afterSlot.tickHang = none)
    (hhost : s.afterSlot.host = a :: rest) :
    betweenCommands s = hostAccess a { s.afterSlot with host := rest } := by
  unfold State.afterSlot at h hhost ⊢
  simp only [betweenCommands, h, hhost]

/-- Everything that can happen between two commands (R80, R214). -/
theorem betweenCommands_cases (s : State) :
    (∃ wd, s.afterSlot.tickHang = some wd ∧ betweenCommands s = .next (s.afterSlot.tickAgain wd)) ∨
    (s.afterSlot.tickHang = none ∧ s.afterSlot.host = [] ∧ betweenCommands s = .next s.afterSlot) ∨
    (∃ a rest, s.afterSlot.tickHang = none ∧ s.afterSlot.host = a :: rest ∧
      betweenCommands s = hostAccess a { s.afterSlot with host := rest }) := by
  obtain hhang | ⟨wd, hhang⟩ := s.afterSlot.tickHang.eq_none_or_eq_some
  · by_cases hhost : s.afterSlot.host = []
    · exact .inr (.inl ⟨hhang, hhost, betweenCommands_idle hhang hhost⟩)
    · obtain ⟨a, rest, hhost⟩ := List.exists_cons_of_ne_nil hhost
      exact .inr (.inr ⟨a, rest, hhang, hhost, betweenCommands_access hhang hhost⟩)
  · exact .inl ⟨wd, hhang, betweenCommands_hang hhang⟩

/-- A command in flight makes its next round (R173). -/
theorem step_of_flight {s : State} {c : InFlight} (h : s.inflight = some c) :
    step s = (readLoop c { s with inflight := none }).outcome := by
  simp only [step, cycle, h]

theorem step_of_rest {s : State} (h : s.inflight = none) : step s = betweenCommands s := by
  simp only [step, cycle, h]

/-- `C` is kept by everything a step is made of, but for BOOT's own writes, while no command is in flight; between two steps
`D` holds. -/
structure KeepsAll (C D : State → Prop) : Prop where
  slot : ∀ {s : State}, C s → C s.afterSlot
  again : ∀ {s : State} (wd : WatchdogFeed), C s → C (s.tickAgain wd)
  read : ∀ {s : State} (r : RegId), Live C s → C (s.busRead .block r).2
  write : ∀ {s : State} (r : RegId) (v : Word), Live C s → C (s.busWrite .block r v)
  own : ∀ {s t : State}, OwnUpdate s t → C s → C t
  land : ∀ {s : State}, D s → C { s with inflight := none }
  flight : ∀ {s : State} (c : InFlight), Live C s → D { s with inflight := some c }
  rest : ∀ {s : State}, C s → D s

/-- What keeps going past a slot is still kept. -/
theorem pass_ends {C : State → Prop} {s : State} (h : C s.afterSlot) : (pass s).Ends (fun _ => Live C) C False := by
  obtain ⟨hp, hrun, hhang, -⟩ | ⟨hp, -⟩ := pass_cases s <;> rw [hp]
  · exact ⟨h, hrun, hhang⟩
  · exact h

section
variable {C D : State → Prop} (hC : KeepsAll C D) {s t : State}
include hC

theorem KeepsAll.keeps : Keeps C C where
  pass h := pass_ends (hC.slot h)
  read := hC.read
  write := hC.write
  own := hC.own

theorem KeepsAll.ended (h : Ended C C True t) : D t := by
  cases h with
  | done hu hfs => exact hC.rest (hC.own (.flags _ hfs) hu)
  | refused hu => exact hC.rest (hC.own (.flags _ (by decide)) hu)
  | cut hu => exact hC.rest hu
  | flight c _ hu => exact hC.flight c hu

theorem KeepsAll.rounds : Rounds C C True := fun _ hs => (hC.keeps.readRound hs).imp fun _ _ ht => ⟨ht, fun _ => trivial⟩

theorem KeepsAll.exec {i : Instr} (hB : i = .boot → KeepsBoot C) (h : C s) (ht : exec i s = .next t) : D t :=
  hC.ended ((hC.keeps.exec (S := True) hC.rounds i (fun hi => ⟨hB hi, .inl trivial⟩) h).next ht)

theorem KeepsAll.readLoop {c : InFlight} (h : C s) (ht : (readLoop c s).outcome = .next t) : D t :=
  hC.ended ((hC.keeps.readLoop (S := True) hC.rounds c h).ended.next ht)

theorem KeepsAll.issue (hB : KeepsBoot C) {w : Word} (h : C s) (ht : issue w s = .next t) : D t := by
  unfold Machine.issue at ht
  split at ht
  · exact hC.exec (fun _ => hB) h ht
  · cases ht
    exact hC.rest (hC.own (.flags s (by decide)) h)

theorem KeepsAll.portWrite (hB : KeepsBoot C) {off v : Word} (h : C s) (ht : portWrite off v s = .next t) : D t := by
  unfold Machine.portWrite at ht
  split at ht
  case h_1 => exact hC.issue hB h ht
  all_goals
    cases ht
    refine hC.rest (hC.own ⟨rfl, ?_, .inl rfl⟩ h)
  case h_6 => exact .inr (PllTriple.fit_fit _ _)
  all_goals exact .inl rfl

theorem KeepsAll.portRead (off : Word) (h : C s) : C (portRead off s) := by
  unfold Machine.portRead
  split <;> exact hC.own ⟨rfl, .inl rfl, .inl rfl⟩ h

theorem KeepsAll.hostAccess (hB : KeepsBoot C) {a : HostAct} (h : C s) (ht : hostAccess a s = .next t) : D t := by
  cases a with
  | write off v => exact hC.portWrite hB h ht
  | read off =>
    cases ht
    exact hC.rest (hC.portRead off h)

theorem KeepsAll.betweenCommands (hB : KeepsBoot C) (h : C s) (ht : betweenCommands s = .next t) : D t := by
  have hslot : C s.afterSlot := hC.slot h
  obtain ⟨wd, -, he⟩ | ⟨-, -, he⟩ | ⟨a, rest, -, -, he⟩ := betweenCommands_cases s <;> rw [he] at ht
  · cases ht
    exact hC.rest (hC.again wd hslot)
  · cases ht
    exact hC.rest hslot
  · exact hC.hostAccess hB (hC.own (t := { s.afterSlot with host := rest }) ⟨rfl, .inl rfl, .inl rfl⟩ hslot) ht

/-- What every part of a step keeps, every step keeps. -/
theorem KeepsAll.step (hB : KeepsBoot C) (h : D s) (ht : step s = .next t) : D t := by
  have hland : C { s with inflight := none } := hC.land h
  cases hf : s.inflight with
  | some c =>
    rw [step_of_flight hf] at ht
    exact hC.readLoop hland ht
  | none =>
    rw [step_of_rest hf] at ht
    rw [← hf] at hland
    exact hC.betweenCommands hB hland ht

end

/-! ### Steps of the other agents -/

/-- What each step of a slot keeps, the slot keeps. -/
theorem State.agentSteps_of_agentStep {K : State → Prop} {sl : Slot}
    (h : ∀ e ∈ sl, ∀ s : State, K s → K (s.agentStep e)) {s : State} (hs : K s) : K (s.agentSteps sl) := by
  induction sl generalizing s with
  | nil => exact hs
  | cons e sl ih => exact ih (fun e' he' => h e' (List.mem_cons_of_mem _ he')) (h e List.mem_cons_self s hs)

/-- What each transaction of the watchdog's `feed()` keeps, all of them keep. -/
theorem State.watchdog_of_foreignOp {K : State → Prop} {wd : WatchdogFeed}
    (h : ∀ op ∈ wd.ops, ∀ s : State, K s → K (s.foreignOp op)) {s : State} (hs : K s) : K (s.watchdog wd) := by
  unfold State.watchdog
  generalize wd.ops = ops at h ⊢
  induction ops generalizing s with
  | nil => exact hs
  | cons op ops ih => exact ih (h op List.mem_cons_self s hs) fun o ho => h o (List.mem_cons_of_mem _ ho)

/-- The watchdog's transactions are on OTHER (R214). -/
theorem WatchdogFeed.mem_ops {wd : WatchdogFeed} {op : BusOp} (h : op ∈ wd.ops) :
    op = .read .other ∨ ∃ v, op = .write .other v := by
  have hop (o : Option Word) : watchdogOp o = .read .other ∨ ∃ v, watchdogOp o = .write .other v := by
    cases o with
    | none => exact .inl rfl
    | some v => exact .inr ⟨v, rfl⟩
  rcases List.mem_cons.1 h with rfl | h
  · exact hop _
  · obtain ⟨o, -, rfl⟩ := List.mem_map.1 h
    exact hop o

/-! ### The invariant -/

/-- The clock registers are within the parameter widths (R36, R45). -/
structure ClockRegs.Fits (P : Params) (c : ClockRegs) : Prop where
  config : c.pllcfgLive.fit P = c.pllcfgLive
  pending : ∀ x, c.pllcfgPend = some x → x.fit P = x
  divider : keepLow P.dBits c.cclkcfg = c.cclkcfg

section
variable {P : Params} {c : ClockRegs}

theorem ClockRegs.Fits.discard (h : c.Fits P) : c.discard.Fits P :=
  ⟨h.config, fun _ hx => by simp [ClockRegs.discard] at hx, h.divider⟩

theorem ClockRegs.Fits.commit (h : c.Fits P) : c.commit.Fits P := by
  refine ⟨?_, fun _ hx => by simp [ClockRegs.commit] at hx, h.divider⟩
  cases hp : c.pllcfgPend with
  | none => simpa [ClockRegs.commit, hp] using h.config
  | some x => simpa [ClockRegs.commit, hp] using h.pending x hp

/-- Nothing that was not pending becomes pending in an unsettled case (R44). -/
theorem ClockRegs.unsettle_pend (c : ClockRegs) (k : Nat) :
    ((c.unsettle k).pllconPend = none ∨ (c.unsettle k).pllconPend = c.pllconPend) ∧
    ((c.unsettle k).pllcfgPend = none ∨ (c.unsettle k).pllcfgPend = c.pllcfgPend) := by
  simp only [ClockRegs.unsettle]
  exact ⟨by split <;> simp, by split <;> simp⟩

theorem ClockRegs.Fits.unsettle (h : c.Fits P) (k : Nat) : (c.unsettle k).Fits P := by
  refine ⟨h.config, fun x hx => ?_, h.divider⟩
  obtain ⟨-, hn | hs⟩ := c.unsettle_pend k
  · rw [hn] at hx
    cases hx
  · exact h.pending x (hs ▸ hx)

theorem ClockRegs.Fits.intervene (h : c.Fits P) (k : Nat) : (c.intervene k).1.Fits P := by
  obtain ⟨-, he⟩ | ⟨-, -, he⟩ | ⟨-, -, he⟩ := c.intervene_cases k <;> rw [he]
  · exact h.discard
  · exact h.unsettle k
  · exact h

theorem ClockRegs.protectedWrite_cases (c : ClockRegs) (k : Nat) (put : ClockRegs → ClockRegs) :
    (c.feed = .armed ∧ c.protectedWrite k put = (put c.discard, k)) ∨
    (c.feed = .idle ∧ c.anyPend = true ∧ c.protectedWrite k put = ((put c).unsettle k, k + 2)) ∨
    (c.feed = .idle ∧ c.anyPend = false ∧ c.protectedWrite k put = (put c, k)) := by
  cases hf : c.feed <;> cases hp : c.anyPend <;> simp [ClockRegs.protectedWrite, hf, hp]

/-- The four things a PLLFEED write can do (R40 to R42, R44). -/
theorem ClockRegs.feedWrite_cases (c : ClockRegs) (k : Nat) (v : Word) :
    (v.toNat % 2 ^ 8 = 0xAA ∧ c.feedWrite k v = ({ c with feed := .armed }, k)) ∨
    (v.toNat % 2 ^ 8 = 0xAA ∧ c.feed = .armed ∧ c.anyPend = true ∧ c.feedWrite k v = (c.unsettle k, k + 2)) ∨
    (v.toNat % 2 ^ 8 = 0x55 ∧ c.feed = .armed ∧ c.feedWrite k v = (c.commit, k)) ∨
    c.feedWrite k v = (c.discard, k) := by
  by_cases h1 : v.toNat % 2 ^ 8 = 0xAA
  · cases hf : c.feed with
    | idle => exact .inl ⟨h1, ClockRegs.feedWrite_first h1 (.inl hf)⟩
    | armed =>
      cases hp : c.anyPend with
      | false => exact .inl ⟨h1, ClockRegs.feedWrite_first h1 (.inr hp)⟩
      | true => exact .inr (.inl ⟨h1, rfl, rfl, ClockRegs.feedWrite_first_again h1 hf hp⟩)
  · by_cases h2 : v.toNat % 2 ^ 8 = 0x55
    · cases hf : c.feed with
      | idle => exact .inr (.inr (.inr (ClockRegs.feedWrite_wrong (.inl ⟨h2, hf⟩))))
      | armed => exact .inr (.inr (.inl ⟨h2, rfl, ClockRegs.feedWrite_second h2 hf⟩))
    · exact .inr (.inr (.inr (ClockRegs.feedWrite_wrong (.inr ⟨h1, h2⟩))))

theorem ClockRegs.Fits.feedWrite (h : c.Fits P) (k : Nat) (v : Word) : (c.feedWrite k v).1.Fits P := by
  obtain ⟨-, he⟩ | ⟨-, -, -, he⟩ | ⟨-, -, he⟩ | he := c.feedWrite_cases k v <;> rw [he]
  · exact ⟨h.config, h.pending, h.divider⟩
  · exact h.unsettle k
  · exact h.commit
  · exact h.discard

theorem ClockRegs.Fits.protectedWrite {put : ClockRegs → ClockRegs} (h : c.Fits P)
    (hput : ∀ c : ClockRegs, c.Fits P → (put c).Fits P) (k : Nat) : (c.protectedWrite k put).1.Fits P := by
  obtain ⟨-, he⟩ | ⟨-, -, he⟩ | ⟨-, -, he⟩ := c.protectedWrite_cases k put <;> rw [he]
  · exact hput _ h.discard
  · exact (hput _ h).unsettle k
  · exact hput _ h

theorem ClockRegs.Fits.put (h : c.Fits P) (r : RegId) (v : Word) : (c.put P r v).Fits P := by
  cases r with
  | cclkcfg => exact ⟨h.config, h.pending, keepLow_keepLow _ _⟩
  | clksrcsel => exact ⟨h.config, h.pending, h.divider⟩
  | _ => exact h

theorem ClockRegs.Fits.pendPllcon (h : c.Fits P) (v : Word) : (c.pendPllcon v).Fits P := ⟨h.config, h.pending, h.divider⟩

theorem ClockRegs.Fits.pendPllcfg (h : c.Fits P) (v : Word) : (c.pendPllcfg P v).Fits P := by
  refine ⟨h.config, fun x hx => ?_, h.divider⟩
  cases hx
  exact PllCfg.fit_fit _ _

end

theorem State.busWrite_fits {s : State} (h : s.clk.Fits s.params) (who : Master) (r : RegId) (v : Word) :
    (s.busWrite who r v).clk.Fits s.params := by
  by_cases h1 : r = .pllcon
  · subst h1
    exact h.protectedWrite (fun _ hc => hc.pendPllcon v) s.draws
  by_cases h2 : r = .pllcfg
  · subst h2
    exact h.protectedWrite (fun _ hc => hc.pendPllcfg v) s.draws
  by_cases h3 : r = .pllfeed
  · subst h3
    exact h.feedWrite s.draws v
  rw [State.busWrite_unprotected h1 h2 h3]
  exact (h.intervene s.draws).put r v

section
variable {s t : State}

theorem State.Inv.fits (h : s.Inv) : s.clk.Fits s.params := ⟨h.config, h.pending, h.divider⟩

/-- A transaction keeps the invariant, if it leaves a hung handler's `TICKIF` set. -/
theorem State.Inv.bus (h : s.Inv) (hb : SameButBus s t) (hfit : t.clk.Fits s.params)
    (htick : s.tickHang.isSome = true → t.rtc.tickif = true) : t.Inv := by
  rw [hb.eq]
  exact ⟨h.memory, h.triple, hfit.config, hfit.pending, hfit.divider, h.status, h.frame,
    fun hs => ⟨(h.hang hs).1, htick hs, (h.hang hs).2.2⟩, h.flight⟩

theorem State.Inv.busRead (h : s.Inv) (who : Master) (r : RegId) : (s.busRead who r).2.Inv := by
  refine h.bus (s.busRead_frame who r) ?_ fun hs => ?_
  · rw [s.busRead_clk]
    exact h.fits.intervene _
  · rw [s.busRead_rtc]
    exact (h.hang hs).2.1

theorem State.Inv.busWrite (h : s.Inv) (who : Master) (r : RegId) (v : Word) (hr : s.tickHang = none ∨ r = .other) :
    (s.busWrite who r v).Inv := by
  refine h.bus (s.busWrite_frame who r v) (s.busWrite_fits h.fits who r v) fun hs => ?_
  obtain hn | rfl := hr
  · simp [hn] at hs
  · exact (h.hang hs).2.1

/-- What the watchdog's transactions keep: the invariant, and whether `TICKIF` is set. -/
theorem State.Inv.watchdog (h : s.Inv) (wd : WatchdogFeed) : (s.watchdog wd).Inv ∧ (s.watchdog wd).rtc = s.rtc := by
  refine State.watchdog_of_foreignOp (K := fun t => t.Inv ∧ t.rtc = s.rtc) (fun op hop t ⟨ht, hrtc⟩ => ?_) ⟨h, rfl⟩
  obtain rfl | ⟨v, rfl⟩ := WatchdogFeed.mem_ops hop
  · exact ⟨ht.busRead .foreign .other, (t.busRead_rtc _ _).trans hrtc⟩
  · exact ⟨ht.busWrite .foreign .other v (.inr rfl), (t.busWrite_rtc _ _ _).trans hrtc⟩

theorem State.Inv.foreignOp (h : s.Inv) (hhang : s.tickHang = none) (op : BusOp) : (s.foreignOp op).Inv := by
  cases op with
  | read r => exact h.busRead .foreign r
  | write r v => exact h.busWrite .foreign r v (.inl hhang)

theorem State.Inv.tickHandler (h : s.Inv) (hrun : s.run = .running) (hhang : s.tickHang = none)
    (hflight : s.inflight = none) (ack : Bool) (wd : WatchdogFeed) : (s.tickHandler ack wd).Inv := by
  obtain ⟨-, he⟩ | ⟨-, -, -, he⟩ | ⟨htick, hen, -, he⟩ := s.tickHandler_cases ack wd <;> rw [he]
  · exact h
  · exact ((h.busWrite .foreign .rtcilr 1#32 (.inl hhang)).watchdog wd).1
  · obtain ⟨hw, hrtc⟩ := h.watchdog wd
    have hf := s.watchdog_frame wd
    have hrun' : (s.watchdog wd).run = .running := hf.run.trans hrun
    have hflight' : (s.watchdog wd).inflight = none := by rw [hf.eq]; exact hflight
    refine ⟨hw.memory, hw.triple, hw.config, hw.pending, hw.divider, hw.status, hw.frame,
      fun _ => ⟨hrun', ?_, ?_⟩, fun hfl => ?_⟩
    · rw [← htick, ← hrtc]
    · rw [← hen, ← hf.slots.params]
    · rw [hflight'] at hfl
      cases hfl

theorem State.Inv.takeFault (h : s.Inv) (f : Option Frame) : (s.takeFault f).Inv := by
  obtain ⟨-, he⟩ | ⟨-, he⟩ := s.takeFault_cases f <;> rw [he]
  · exact ⟨h.memory, h.triple, h.config, h.pending, h.divider, h.status, fun _ => rfl, nofun, nofun⟩
  · exact h

theorem State.Inv.halt (h : s.Inv) : s.halt.Inv := by
  obtain ⟨hrun, he⟩ | ⟨-, he⟩ := s.halt_cases <;> rw [he]
  · refine ⟨h.memory, h.triple, h.config, h.pending, h.divider, h.status, nofun, fun hs => ?_, fun hs => ?_⟩
    · exact absurd ((h.hang hs).1.symm.trans hrun) (by decide)
    · exact absurd ((h.flight hs).1.symm.trans hrun) (by decide)
  · exact h

theorem State.Inv.calendarStep (h : s.Inv) (t : RtcTime) (tick : Bool) : (s.calendarStep t tick).Inv := by
  unfold State.calendarStep
  split
  · exact ⟨h.memory, h.triple, h.config, h.pending, h.divider, h.status, h.frame,
      fun hs => ⟨(h.hang hs).1, by simp [(h.hang hs).2.1], (h.hang hs).2.2⟩, h.flight⟩
  · exact h

theorem State.Inv.draw (h : s.Inv) (k : Nat) : State.Inv { s with draws := k } :=
  ⟨h.memory, h.triple, h.config, h.pending, h.divider, h.status, h.frame, h.hang, h.flight⟩

theorem State.Inv.calendarSecond (h : s.Inv) : s.calendarSecond.Inv := by
  unfold State.calendarSecond
  split
  · split
    · exact h.calendarStep _ _
    · exact (h.draw _).calendarStep _ _
  · exact h

theorem State.Inv.hwReset (h : s.Inv) (u : ResetDraws) : (s.hwReset u).Inv := by
  have hbound : s.params.sData.toNat + (s.params.sEbss.toNat - s.params.sData.toNat) ≤ 2 ^ 32 := by
    have h1 := s.params.sData.isLt
    have h2 := s.params.sEbss.isLt
    omega
  exact ⟨Memory.wf_fill _ _ _ h.memory hbound, by simp [State.hwReset, PllTriple.fit, keepLow],
    PllCfg.fit_fit _ _, nofun, keepLow_keepLow _ _, by simp [State.hwReset, statusWords], nofun, nofun, nofun⟩

/-- Every step of another agent keeps the invariant while no command is in flight. -/
theorem State.Inv.agentStep (h : s.Inv) (hflight : s.inflight = none) (e : EnvEvent) : (s.agentStep e).Inv := by
  cases e with
  | rtcStep t tick => exact h.calendarStep t tick
  | rtcSecond => exact h.calendarSecond
  | foreign op =>
    simp only [State.agentStep]
    split
    · next hgo =>
      simp only [Bool.and_eq_true, Option.isNone_iff_eq_none] at hgo
      exact h.foreignOp hgo.2 op
    · exact h
  | tick ack wd =>
    simp only [State.agentStep]
    split
    · next hgo =>
      simp only [Bool.and_eq_true, decide_eq_true_eq, Option.isNone_iff_eq_none] at hgo
      exact h.tickHandler hgo.1 hgo.2 hflight ack wd
    · exact h
  | fault f => exact h.takeFault f
  | halt => exact h.halt
  | reset u => exact h.hwReset u

end

/-- No step of another agent begins a command. -/
theorem State.agentStep_inflight (e : EnvEvent) {s : State} (h : s.inflight = none) :
    (s.agentStep e).inflight = none := by
  have bus {t : State} (hb : SameButBus s t) : t.inflight = none := by rw [hb.eq]; exact h
  have calendar {t : State} (hc : SameButCalendar s t) : t.inflight = none := by rw [hc.eq]; exact h
  cases e with
  | rtcStep t tick => exact calendar (State.calendar_agentStep rfl s)
  | rtcSecond => exact calendar (State.calendar_agentStep rfl s)
  | foreign op =>
    simp only [State.agentStep]
    split
    · exact bus (s.foreignOp_frame op)
    · exact h
  | tick ack wd =>
    simp only [State.agentStep]
    split
    · obtain ⟨-, he⟩ | ⟨-, -, -, he⟩ | ⟨-, -, -, he⟩ := s.tickHandler_cases ack wd <;> rw [he]
      · exact h
      · exact bus ((s.busWrite_frame _ _ _).trans (State.watchdog_frame wd _))
      · exact (bus (s.watchdog_frame wd) : (s.watchdog wd).inflight = none)
    · exact h
  | fault f => obtain ⟨-, he⟩ | ⟨-, he⟩ := s.takeFault_cases f <;> simp only [State.agentStep, he, h]
  | halt => obtain ⟨-, he⟩ | ⟨-, he⟩ := s.halt_cases <;> simp only [State.agentStep, he, h]
  | reset u => rfl

/-! ### The invariant of a step -/

/-- The invariant under the parameter set `P`. -/
structure InvAt (P : Params) (s : State) : Prop where
  inv : s.Inv
  params : s.params = P

/-- The invariant under `P` while no command is in flight. -/
structure InvAtRest (P : Params) (s : State) : Prop extends InvAt P s where
  rest : s.inflight = none

section
variable {P : Params} {s t : State}

theorem InvAtRest.bus (h : InvAtRest P s) (hb : SameButBus s t) (ht : t.Inv) : InvAtRest P t :=
  ⟨⟨ht, hb.slots.params.trans h.params⟩, by rw [hb.eq]; exact h.rest⟩

theorem InvAtRest.agentStep (h : InvAtRest P s) (e : EnvEvent) : InvAtRest P (s.agentStep e) :=
  ⟨⟨h.inv.agentStep h.rest e, (s.agentStep_keeps e).1.trans h.params⟩, State.agentStep_inflight e h.rest⟩

theorem InvAtRest.afterSlot (h : InvAtRest P s) : InvAtRest P s.afterSlot := by
  refine State.agentSteps_of_agentStep (fun e _ t ht => ht.agentStep e) ?_
  have hd := h.inv
  rw [s.dropSlot_slots.eq]
  simp only [State.dropSlot_clk, State.dropSlot_rtc]
  exact ⟨⟨⟨hd.memory, hd.triple, hd.config, hd.pending, hd.divider, hd.status, hd.frame, hd.hang, hd.flight⟩, h.params⟩,
    h.rest⟩

theorem InvAtRest.own (h : InvAtRest P s) (ho : OwnUpdate s t) : InvAtRest P t := by
  have htriple : t.pr.fit s.params = t.pr := ho.triple.elim (fun he => he ▸ h.inv.triple) id
  have hstatus : t.status ∈ statusWords := ho.status.elim (fun he => he ▸ h.inv.status) id
  have hi := h.inv
  rw [ho.eq]
  exact ⟨⟨⟨hi.memory, htriple, hi.config, hi.pending, hi.divider, hstatus, hi.frame, hi.hang, hi.flight⟩, h.params⟩,
    h.rest⟩

end

theorem invAt_keepsAll (P : Params) : KeepsAll (InvAtRest P) (InvAt P) where
  slot h := h.afterSlot
  again {s} wd h := by
    obtain ⟨-, he⟩ | ⟨-, he⟩ := s.tickAgain_cases wd <;> rw [he]
    · exact h.bus (s.watchdog_frame wd) (h.inv.watchdog wd).1
    · exact h
  read {s} r h := h.holds.bus (s.busRead_frame .block r) (h.holds.inv.busRead .block r)
  write {s} r v h := h.holds.bus (s.busWrite_frame .block r v) (h.holds.inv.busWrite .block r v (.inl h.hang))
  own ho h := h.own ho
  land h :=
    ⟨⟨⟨h.inv.memory, h.inv.triple, h.inv.config, h.inv.pending, h.inv.divider, h.inv.status, h.inv.frame, h.inv.hang,
      nofun⟩, h.params⟩, rfl⟩
  flight c h :=
    have hi := h.holds.inv
    ⟨⟨hi.memory, hi.triple, hi.config, hi.pending, hi.divider, hi.status, hi.frame, hi.hang,
      fun _ => ⟨h.run, h.hang⟩⟩, h.holds.params⟩
  rest h := h.toInvAt

theorem invAtRest_keepsBoot (P : Params) : KeepsBoot (InvAtRest P) where
  setStacks h := ⟨⟨⟨h.inv.memory, h.inv.triple, h.inv.config, h.inv.pending, h.inv.divider, h.inv.status, h.inv.frame,
    h.inv.hang, h.inv.flight⟩, h.params⟩, h.rest⟩
  store b ha h := ⟨⟨⟨Memory.wf_write h.inv.memory ha b, h.inv.triple, h.inv.config, h.inv.pending, h.inv.divider,
    h.inv.status, h.inv.frame, h.inv.hang, h.inv.flight⟩, h.params⟩, h.rest⟩

/-- Settles O60: every part of a step keeps the invariant. -/
theorem everyStepKeepsTheInvariant : Obligations.EveryStepKeepsTheInvariant := by
  intro s t hs ht
  have h := (invAt_keepsAll s.params).step (invAtRest_keepsBoot s.params) ⟨hs, rfl⟩ ht
  exact ⟨h.inv, h.params⟩

end Sys2Proof.Machine
end

section
/-! PROOF. What holds until a reset comes: the run state only moves forward, the mark `refused` stays, no command but BOOT
touches memory, and nothing but the calendar agent acts after a fault (R44, R216, R218, R245). -/

namespace Sys2Proof.Machine

open Sys2Proof

/-- `K` is kept by everything but a reset. -/
structure KeptShortOfReset (K : State → Prop) : Prop where
  drop : ∀ {s : State}, K s → K s.dropSlot
  agent : ∀ {s : State} {e : EnvEvent}, e.isReset = false → K s → K (s.agentStep e)
  again : ∀ {s : State} (wd : WatchdogFeed), K s → K (s.tickAgain wd)
  read : ∀ {s : State} (r : RegId), K s → K (s.busRead .block r).2
  write : ∀ {s : State} (r : RegId) (v : Word), K s → K (s.busWrite .block r v)
  own : ∀ {s t : State}, OwnUpdate s t → K s → K t
  inflight : ∀ {s : State} (f : Option InFlight), K s → K { s with inflight := f }

/-- The schedule decides whether a reset is coming. -/
theorem State.noReset_of_schedule {s t : State} (h : s.noReset) (henv : t.env = s.env) (hloop : t.envLoop = s.envLoop) :
    t.noReset := by
  rw [State.noReset, henv, hloop]
  exact h

theorem State.noReset_afterSlot {s : State} (h : s.noReset) : s.afterSlot.noReset := by
  obtain ⟨-, -, henv, hloop, -⟩ := State.agentSteps_keeps s.nextSlot s.dropSlot
  exact State.noReset_of_schedule (State.noReset_next h).2 henv hloop

theorem SameButBus.noReset {s t : State} (hb : SameButBus s t) (h : s.noReset) : t.noReset := by
  rw [hb.eq]
  exact h

theorem OwnUpdate.noReset {s t : State} (ho : OwnUpdate s t) (h : s.noReset) : t.noReset := by
  rw [ho.eq]
  exact h

/-- What is kept short of a reset is kept while none is coming. -/
theorem KeptShortOfReset.keepsAll {K : State → Prop} (hK : KeptShortOfReset K) :
    KeepsAll (fun s => K s ∧ s.noReset) (fun s => K s ∧ s.noReset) where
  slot := fun ⟨h, hn⟩ => ⟨State.agentSteps_of_agentStep
    (fun e he _ ht => hK.agent ((State.noReset_next hn).1 e he) ht) (hK.drop h), State.noReset_afterSlot hn⟩
  again {s} wd := fun ⟨h, hn⟩ => ⟨hK.again wd h, (s.tickAgain_frame wd).noReset hn⟩
  read {s} r h := ⟨hK.read r h.holds.1, (s.busRead_frame .block r).noReset h.holds.2⟩
  write {s} r v h := ⟨hK.write r v h.holds.1, (s.busWrite_frame .block r v).noReset h.holds.2⟩
  own ho := fun ⟨h, hn⟩ => ⟨hK.own ho h, ho.noReset hn⟩
  land := fun ⟨h, hn⟩ => ⟨hK.inflight none h, hn⟩
  flight c h := ⟨hK.inflight (some c) h.holds.1, h.holds.2⟩
  rest h := h

/-! ### The run state -/

theorem OwnUpdate.run {s t : State} (ho : OwnUpdate s t) : t.run = s.run := by rw [ho.eq]

theorem SameButCalendar.run {s t : State} (hc : SameButCalendar s t) : t.run = s.run := by rw [hc.eq]

theorem State.tickHandler_run (ack : Bool) (wd : WatchdogFeed) (s : State) : (s.tickHandler ack wd).run = s.run := by
  obtain ⟨-, h⟩ | ⟨-, -, -, h⟩ | ⟨-, -, -, h⟩ := s.tickHandler_cases ack wd <;> rw [h]
  · exact ((s.busWrite_frame _ _ _).trans (State.watchdog_frame wd _)).run
  · exact (s.watchdog_frame wd).run

/-- No step of another agent but a reset takes RUN back (R216). -/
theorem State.agentStep_rank {e : EnvEvent} (h : e.isReset = false) (s : State) : s.run.rank ≤ (s.agentStep e).run.rank := by
  cases e with
  | rtcStep t tick => exact (congrArg RunState.rank (State.calendar_agentStep rfl s).run).ge
  | rtcSecond => exact (congrArg RunState.rank (State.calendar_agentStep rfl s).run).ge
  | foreign op =>
    simp only [State.agentStep]
    split
    · exact (congrArg RunState.rank (s.foreignOp_frame op).run).ge
    · exact le_rfl
  | tick ack wd =>
    simp only [State.agentStep]
    split
    · exact (congrArg RunState.rank (s.tickHandler_run ack wd)).ge
    · exact le_rfl
  | fault f =>
    obtain ⟨hrun, he⟩ | ⟨-, he⟩ := s.takeFault_cases f <;> rw [State.agentStep, he]
    rw [hrun]
    exact Nat.zero_le _
  | halt =>
    obtain ⟨hrun, he⟩ | ⟨-, he⟩ := s.halt_cases <;> rw [State.agentStep, he]
    rw [hrun]
    exact Nat.le_succ 1
  | reset u => cases h

theorem rank_kept (n : Nat) : KeptShortOfReset fun s => n ≤ s.run.rank where
  drop {s} h := by rwa [s.dropSlot_run]
  agent {s} _ he h := h.trans (State.agentStep_rank he s)
  again {s} wd h := by rwa [(s.tickAgain_frame wd).run]
  read {s} r h := by rwa [(s.busRead_frame .block r).run]
  write {s} r v h := by rwa [(s.busWrite_frame .block r v).run]
  own ho h := by rwa [ho.run]
  inflight _ h := h

/-- Settles O10: the rank of RUN is kept from below. -/
theorem runStateOnlyMovesForward : Obligations.RunStateOnlyMovesForward := fun s _ hn ht =>
  ((rank_kept s.run.rank).keepsAll.step ⟨fun h => h, fun _ _ h => h⟩ ⟨le_rfl, hn⟩ ht).1

/-! ### The mark `refused` -/

theorem ClockRegs.intervene_refused {c : ClockRegs} (h : c.refused = true) (k : Nat) :
    (c.intervene k).1.refused = true := by
  obtain ⟨-, he⟩ | ⟨-, -, he⟩ | ⟨-, -, he⟩ := c.intervene_cases k <;> rw [he]
  · exact h
  · rfl
  · exact h

theorem ClockRegs.feedWrite_refused {c : ClockRegs} (h : c.refused = true) (k : Nat) (v : Word) :
    (c.feedWrite k v).1.refused = true := by
  obtain ⟨-, he⟩ | ⟨-, -, -, he⟩ | ⟨-, -, he⟩ | he := c.feedWrite_cases k v <;> rw [he]
  · exact h
  · rfl
  · exact h
  · exact h

theorem ClockRegs.protectedWrite_refused {c : ClockRegs} (h : c.refused = true) (k : Nat) {put : ClockRegs → ClockRegs}
    (hput : ∀ c, (put c).refused = c.refused) : (c.protectedWrite k put).1.refused = true := by
  obtain ⟨-, he⟩ | ⟨-, -, he⟩ | ⟨-, -, he⟩ := c.protectedWrite_cases k put <;> rw [he]
  · exact (hput _).trans h
  · rfl
  · exact (hput _).trans h

theorem State.busRead_refused {s : State} (h : s.clk.refused = true) (who : Master) (r : RegId) :
    (s.busRead who r).2.clk.refused = true := by
  rw [s.busRead_clk]
  exact ClockRegs.intervene_refused h s.draws

theorem State.busWrite_refused {s : State} (h : s.clk.refused = true) (who : Master) (r : RegId) (v : Word) :
    (s.busWrite who r v).clk.refused = true := by
  by_cases h1 : r = .pllcon
  · subst h1
    exact ClockRegs.protectedWrite_refused h s.draws fun _ => rfl
  by_cases h2 : r = .pllcfg
  · subst h2
    exact ClockRegs.protectedWrite_refused h s.draws fun _ => rfl
  by_cases h3 : r = .pllfeed
  · subst h3
    exact ClockRegs.feedWrite_refused h s.draws v
  rw [State.busWrite_unprotected h1 h2 h3, ClockRegs.put_frame]
  exact ClockRegs.intervene_refused h s.draws

theorem State.foreignOp_refused {s : State} (h : s.clk.refused = true) (op : BusOp) :
    (s.foreignOp op).clk.refused = true := by
  cases op with
  | read r => exact State.busRead_refused h .foreign r
  | write r v => exact State.busWrite_refused h .foreign r v

theorem State.watchdog_refused {s : State} (h : s.clk.refused = true) (wd : WatchdogFeed) :
    (s.watchdog wd).clk.refused = true :=
  State.watchdog_of_foreignOp (K := fun t => t.clk.refused = true) (fun op _ _ ht => State.foreignOp_refused ht op) h

theorem State.agentStep_refused {s : State} {e : EnvEvent} (he : e.isReset = false) (h : s.clk.refused = true) :
    (s.agentStep e).clk.refused = true := by
  cases e with
  | rtcStep t tick =>
    rw [(State.calendar_agentStep rfl s).eq]
    exact h
  | rtcSecond =>
    rw [(State.calendar_agentStep rfl s).eq]
    exact h
  | foreign op =>
    simp only [State.agentStep]
    split
    · exact State.foreignOp_refused h op
    · exact h
  | tick ack wd =>
    simp only [State.agentStep]
    split
    · obtain ⟨-, ht⟩ | ⟨-, -, -, ht⟩ | ⟨-, -, -, ht⟩ := s.tickHandler_cases ack wd <;> rw [ht]
      · exact h
      · exact State.watchdog_refused (State.busWrite_refused h _ _ _) wd
      · exact State.watchdog_refused h wd
    · exact h
  | fault f => obtain ⟨-, hf⟩ | ⟨-, hf⟩ := s.takeFault_cases f <;> simpa only [State.agentStep, hf] using h
  | halt => obtain ⟨-, hf⟩ | ⟨-, hf⟩ := s.halt_cases <;> simpa only [State.agentStep, hf] using h
  | reset u => cases he

theorem refused_kept : KeptShortOfReset fun s => s.clk.refused = true where
  drop {s} h := by rwa [s.dropSlot_clk]
  agent he h := State.agentStep_refused he h
  again {s} wd h := by
    obtain ⟨-, he⟩ | ⟨-, he⟩ := s.tickAgain_cases wd <;> rw [he]
    · exact State.watchdog_refused h wd
    · exact h
  read r h := State.busRead_refused h .block r
  write r v h := State.busWrite_refused h .block r v
  own ho h := by
    rw [ho.eq]
    exact h
  inflight _ h := h

/-- Settles O23: every part of a step but a reset keeps the mark. -/
theorem refusedMarkStaysUntilReset : Obligations.RefusedMarkStaysUntilReset := fun _ _ hn hs ht =>
  (refused_kept.keepsAll.step ⟨fun h => h, fun _ _ h => h⟩ ⟨hs, hn⟩ ht).1

/-! ### Memory and the stack pointers -/

/-- Memory and the stack pointers are those of `s₀`. -/
structure MemoryOf (s₀ s : State) : Prop where
  mem : s.mem = s₀.mem
  msp : s.msp = s₀.msp
  psp : s.psp = s₀.psp

theorem SameButBus.memoryOf {s₀ s t : State} (hb : SameButBus s t) (h : MemoryOf s₀ s) : MemoryOf s₀ t := by
  rw [hb.eq]
  exact ⟨h.mem, h.msp, h.psp⟩

theorem memoryOf_kept (s₀ : State) : KeptShortOfReset (MemoryOf s₀) where
  drop {s} h := by
    rw [s.dropSlot_slots.eq]
    exact ⟨h.mem, h.msp, h.psp⟩
  agent {s} _ he h := by
    rw [(State.agentStep_frame he s).eq]
    exact ⟨h.mem, h.msp, h.psp⟩
  again {s} wd h := (s.tickAgain_frame wd).memoryOf h
  read {s} r h := (s.busRead_frame .block r).memoryOf h
  write {s} r v h := (s.busWrite_frame .block r v).memoryOf h
  own ho h := by
    rw [ho.eq]
    exact ⟨h.mem, h.msp, h.psp⟩
  inflight _ h := ⟨h.mem, h.msp, h.psp⟩

/-- Settles O36: every part of a step but a reset and BOOT's own writes keeps memory and the stack pointers. -/
theorem onlyBootTouchesMemoryAndStacks : Obligations.OnlyBootTouchesMemoryAndStacks := by
  constructor
  · intro i s t hi hn ht
    obtain ⟨⟨hmem, hmsp, hpsp⟩, -⟩ := (memoryOf_kept s).keepsAll.exec (fun hb => absurd hb hi) ⟨⟨rfl, rfl, rfl⟩, hn⟩ ht
    exact ⟨hmem, hmsp, hpsp⟩
  · intro s t hf hn ht
    have later {c : InFlight} (hc : s.inflight = some c) : MemoryOf s t := by
      rw [step_of_flight hc] at ht
      exact ((memoryOf_kept s).keepsAll.readLoop (s := { s with inflight := none }) ⟨⟨rfl, rfl, rfl⟩, hn⟩ ht).1
    obtain ⟨hmem, hmsp, hpsp⟩ : MemoryOf s t := hf.elim later later
    exact ⟨hmem, hmsp, hpsp⟩

/-! ### After a fault -/

/-- RUN has left Running, and nothing but the calendar, the draw index, the frame and the block's own words for the host
differs from `s₀` (R218). -/
structure AtRestSince (s₀ s : State) : Prop where
  run : s.run ≠ .running
  hist : s.hist = s₀.hist
  clk : s.clk = s₀.clk
  clken : s.rtc.clken = s₀.rtc.clken
  ccrx : s.rtc.ccrx = s₀.rtc.ccrx
  mem : s.mem = s₀.mem
  msp : s.msp = s₀.msp
  psp : s.psp = s₀.psp
  ts : s.ts = s₀.ts
  cs : s.cs = s₀.cs
  booted : s.booted = s₀.booted

section
variable {s₀ s t : State}

theorem SameButCalendar.atRest (hc : SameButCalendar s t) (h : AtRestSince s₀ s) : AtRestSince s₀ t := by
  rw [hc.eq]
  exact { h with }

/-- After a fault no step of another agent but a reset is more than the calendar's or the halt (R218, R221). -/
theorem AtRestSince.agentStep (h : AtRestSince s₀ s) {e : EnvEvent} (he : e.isReset = false) :
    AtRestSince s₀ (s.agentStep e) := by
  cases e with
  | rtcStep t tick => exact (State.calendar_agentStep rfl s).atRest h
  | rtcSecond => exact (State.calendar_agentStep rfl s).atRest h
  | foreign op => simpa only [State.agentStep, h.run, decide_false, Bool.false_and, Bool.false_eq_true, if_false] using h
  | tick ack wd => simpa only [State.agentStep, h.run, decide_false, Bool.false_and, Bool.false_eq_true, if_false] using h
  | fault f => simpa only [State.agentStep, State.takeFault, h.run, if_false] using h
  | halt =>
    obtain ⟨-, hh⟩ | ⟨-, hh⟩ := s.halt_cases <;> rw [State.agentStep, hh]
    · exact { h with run := nofun }
    · exact h
  | reset u => cases he

theorem AtRestSince.afterSlot (h : AtRestSince s₀ s) (hn : s.noReset) : AtRestSince s₀ s.afterSlot := by
  refine State.agentSteps_of_agentStep (fun e he _ ht => ht.agentStep ((State.noReset_next hn).1 e he)) ?_
  rw [s.dropSlot_slots.eq]
  simp only [State.dropSlot_clk, State.dropSlot_rtc, State.dropSlot_hist]
  exact { h with }

/-- A command's first transaction finds RUN not Running. -/
theorem AtRestSince.pass (h : AtRestSince s₀ s) (hn : s.noReset) : Machine.pass s = .cut s.afterSlot := by
  obtain ⟨-, hrun, -⟩ | ⟨hp, -⟩ := pass_cases s
  · exact absurd hrun (h.afterSlot hn).run
  · exact hp

theorem readLoop_of_cut (c : InFlight) (h : pass s = .cut t) : readLoop c s = .cut t := by
  simp only [readLoop, readRound, fullRead, txRead, h, Run.andThen_cut]

theorem AtRestSince.portWrite (h : AtRestSince s₀ s) {off v : Word} (ht : portWrite off v s = .next t) :
    AtRestSince s₀ t := by
  unfold Machine.portWrite at ht
  split at ht
  case h_1 =>
    have hill : issue v s = .next s.illegal := issue_refused fun i _ => exec_of_not_running h.run i
    rw [hill] at ht
    cases ht
    exact { h with }
  all_goals
    cases ht
    exact { h with }

theorem AtRestSince.hostAccess (h : AtRestSince s₀ s) {a : HostAct} (ht : hostAccess a s = .next t) :
    AtRestSince s₀ t := by
  cases a with
  | write off v => exact h.portWrite ht
  | read off =>
    cases ht
    unfold portRead
    split <;> exact { h with }

theorem AtRestSince.betweenCommands (h : AtRestSince s₀ s) (hn : s.noReset) (ht : betweenCommands s = .next t) :
    AtRestSince s₀ t := by
  have hslot := h.afterSlot hn
  obtain ⟨wd, -, he⟩ | ⟨-, -, he⟩ | ⟨a, rest, -, -, he⟩ := betweenCommands_cases s <;> rw [he] at ht
  · cases ht
    rwa [State.tickAgain, if_neg hslot.run]
  · cases ht
    exact hslot
  · exact AtRestSince.hostAccess (s := { s.afterSlot with host := rest }) { hslot with } ht

end

/-- Settles O11: the slots move only the calendar, every command is refused, and a command in flight is cut. -/
theorem nothingRunsAfterAFault : Obligations.NothingRunsAfterAFault := by
  intro s t hrun hn ht
  have h : AtRestSince s s := ⟨hrun, rfl, rfl, rfl, rfl, rfl, rfl, rfl, rfl, rfl, rfl⟩
  obtain ⟨h1, h2, h3, h4, h5, h6, h7, h8, h9, h10, h11⟩ : AtRestSince s t := by
    cases hf : s.inflight with
    | none => exact h.betweenCommands hn ((step_of_rest hf).symm.trans ht)
    | some c =>
      have hland : AtRestSince s { s with inflight := none } := { h with }
      rw [step_of_flight hf, readLoop_of_cut c (hland.pass hn)] at ht
      cases ht
      exact hland.afterSlot hn
  exact ⟨h1, h2, h3, h4, h5, h6, h7, h8, h9, h10, h11⟩

end Sys2Proof.Machine
end

section
/-! PROOF. Commands and single operations: the decoder's round trip, how a word reaches `exec`, faults and the halt, protected
writes, and the state after reset (R100 to R109, R217, R218, R39, R128). -/

namespace Sys2Proof.Machine

open Sys2Proof

/-- Settles O1: the word of a command has its three fields, and they select it. -/
theorem decodeOfEncodeIsTheCommand : Obligations.DecodeOfEncodeIsTheCommand := fun i =>
  decode_of_fields (opcodeOf_encode i) (regOf_encode i) (immOf_encode i)

/-- Settles O4: each word is the encoding of its command. -/
theorem exampleWordsDecode : Obligations.ExampleWordsDecode :=
  ⟨decodeOfEncodeIsTheCommand .clkdis, decodeOfEncodeIsTheCommand (.regwr .pllcon),
    decodeOfEncodeIsTheCommand (.regrd .pllstat), decodeOfEncodeIsTheCommand (.setdom 29#16),
    decodeOfEncodeIsTheCommand (.setyear 1970#16)⟩

/-- A host write of CMD issues its word (R100). -/
theorem hostAccess_command (w : Word) (s : State) : hostAccess (.write 0x00#32 w) s = issue w s := rfl

/-- Settles O5: past the slot, empty where the word was placed, the host's next access is the write of CMD. -/
theorem stepRunsTheCommandWritten : Obligations.StepRunsTheCommandWritten := by
  intro s w i hw
  have access {t : State} {rest : List HostAct} (hf : t.inflight = none) (hhang : t.afterSlot.tickHang = none)
      (hhost : t.afterSlot.host = .write 0x00#32 w :: rest) : step t = exec i { t.afterSlot with host := rest } := by
    rw [step_of_rest hf, betweenCommands_access hhang hhost, hostAccess_command, issue_of_decode_ok hw]
  constructor
  · have hword : BitVec.ofNat 32 (w.toNat % 2 ^ 32) = w := by rw [Nat.mod_eq_of_lt w.isLt, BitVec.ofNat_toNat, BitVec.setWidth_eq]
    rw [State.withFetchWord, hword]
    exact access (t := s.withCommand w) rfl rfl rfl
  · intro rest hf hhost hhang
    refine access hf hhang ?_
    rw [State.afterSlot, (State.agentSteps_keeps _ _).2.1, s.dropSlot_host, hhost]

/-- Settles O8: the cases of a fault and of the halt. -/
theorem faultAndHaltMoveTheRunState : Obligations.FaultAndHaltMoveTheRunState := fun _ _ =>
  ⟨fun h => if_pos h, fun h => if_neg h, fun h => if_pos h, fun h => if_neg h⟩

/-- Settles O31: RTCSET's own refusal. -/
theorem rtcsetRefusesAnInvalidTime : Obligations.RtcsetRefusesAnInvalidTime := by
  intro s hrun hvalid
  change execRtcset s = _
  rw [execRtcset, whenRunning_of_running hrun, hvalid, if_neg Bool.false_ne_true]
  rfl

/-- Settles O59. -/
theorem resetStateMeetsTheInvariant : Obligations.ResetStateMeetsTheInvariant where
  memory := rfl
  triple := by decide
  config := by decide
  pending := nofun
  divider := by decide
  status := by decide
  frame := nofun
  hang := nofun
  flight := nofun

/-! ### Protected writes -/

theorem ClockRegs.discard_eq_self {c : ClockRegs} (h1 : c.pllconPend = none) (h2 : c.pllcfgPend = none)
    (hf : c.feed = .idle) : c.discard = c := by
  obtain ⟨_, _, _, _, _, _, _, _⟩ := c
  cases h1
  cases h2
  cases hf
  rfl

/-- In its settled cases a protected write only stores its value, in place of what was pending (R39 (a), (b)). -/
theorem ClockRegs.protectedWrite_settled {c : ClockRegs} (h : c.feed = .armed ∨ (c.pllconPend = none ∧ c.pllcfgPend = none))
    (k : Nat) (put : ClockRegs → ClockRegs) : c.protectedWrite k put = (put c.discard, k) := by
  cases hf : c.feed with
  | armed => exact ClockRegs.protectedWrite_armed hf
  | idle =>
    obtain ⟨h1, h2⟩ := h.resolve_left (by simp [hf])
    rw [ClockRegs.protectedWrite_idle hf (ClockRegs.anyPend_of_none h1 h2), ClockRegs.discard_eq_self h1 h2 hf]

/-- Settles O16: only the value written is pending, as its fields. -/
theorem protectedWriteOnlyPends : Obligations.ProtectedWriteOnlyPends := by
  intro s who v h
  have hcon : s.busWrite who .pllcon v = _ := s.busWrite_pllcon who v
  have hcfg : s.busWrite who .pllcfg v = _ := s.busWrite_pllcfg who v
  rw [ClockRegs.protectedWrite_settled h] at hcon hcfg
  refine ⟨hcon, ?_, ⟨v.extractLsb' 0 2, by rw [hcon]; rfl, ?_⟩, fun ⟨⟨⟨_, hm⟩, ⟨_, hn⟩, _⟩, _⟩ =>
    ⟨PllCfg.ofWord s.params v, by rw [hcfg]; rfl, ?_, ?_⟩⟩
  · rw [← PllCfg.ofWord_eq]
    exact hcfg
  · rw [toNat_extractLsb'_eq, Nat.pow_zero, Nat.div_one]
  · have hlt : v.toNat % 2 ^ s.params.mBits < 2 ^ 16 :=
      (Nat.mod_lt _ (Nat.two_pow_pos _)).trans_le (Nat.pow_le_pow_right (by decide) hm)
    rw [PllCfg.ofWord_eq, BitVec.toNat_ofNat, Nat.mod_eq_of_lt hlt]
  · have hlt : v.toNat / 2 ^ 16 % 2 ^ s.params.nBits < 2 ^ 8 :=
      (Nat.mod_lt _ (Nat.two_pow_pos _)).trans_le (Nat.pow_le_pow_right (by decide) hn)
    rw [PllCfg.ofWord_eq, BitVec.toNat_ofNat, Nat.mod_eq_of_lt hlt]

end Sys2Proof.Machine
end

section
/-! PROOF. What a single bus write leaves in every state: the unsettled cases of the feed machinery, the live halves, and the
registers that store at once (R32 to R34, R39 to R51). -/

namespace Sys2Proof.Machine

open Sys2Proof

/-! ### The unsettled cases and the live halves -/

/-- What a transaction outside a complete pair leaves of the protected registers: the live halves as they were, and each
pending half empty or the one given. -/
structure ClockRegs.HeldBack (c c' : ClockRegs) (con : Option (BitVec 2)) (cfg : Option PllCfg) : Prop where
  pllconLive : c'.pllconLive = c.pllconLive
  pllcfgLive : c'.pllcfgLive = c.pllcfgLive
  pllconPend : c'.pllconPend = none ∨ c'.pllconPend = con
  pllcfgPend : c'.pllcfgPend = none ∨ c'.pllcfgPend = cfg

section
variable {c : ClockRegs}

theorem ClockRegs.unsettle_heldBack (c : ClockRegs) (k : Nat) :
    c.HeldBack (c.unsettle k) c.pllconPend c.pllcfgPend :=
  have h := c.unsettle_pend k
  ⟨rfl, rfl, h.1, h.2⟩

theorem ClockRegs.intervene_heldBack (c : ClockRegs) (k : Nat) :
    c.HeldBack (c.intervene k).1 c.pllconPend c.pllcfgPend := by
  obtain ⟨-, h⟩ | ⟨-, -, h⟩ | ⟨-, -, h⟩ := c.intervene_cases k <;> rw [h]
  · exact ⟨rfl, rfl, .inl rfl, .inl rfl⟩
  · exact c.unsettle_heldBack k
  · exact ⟨rfl, rfl, .inr rfl, .inr rfl⟩

/-- A write to a protected register changes no live half; `put` says what it makes pending. -/
theorem ClockRegs.protectedWrite_heldBack {put : ClockRegs → ClockRegs} {con : Option (BitVec 2)} {cfg : Option PllCfg}
    (k : Nat) (hvoid : c.HeldBack (put c.discard) con cfg) (hput : c.HeldBack (put c) con cfg) :
    c.HeldBack (c.protectedWrite k put).1 con cfg := by
  obtain ⟨-, h⟩ | ⟨-, -, h⟩ | ⟨-, -, h⟩ := c.protectedWrite_cases k put <;> rw [h]
  · exact hvoid
  · obtain ⟨hcon, hcfg, hcp, hcf⟩ := (put c).unsettle_heldBack k
    exact ⟨hcon.trans hput.pllconLive, hcfg.trans hput.pllcfgLive,
      hcp.elim .inl fun he => he ▸ hput.pllconPend, hcf.elim .inl fun he => he ▸ hput.pllcfgPend⟩
  · exact hput

end

/-- A write to any register but PLLFEED changes no live half, and makes at most its own value pending (R39, R43, R44). -/
theorem State.busWrite_heldBack {r : RegId} (hr : r ≠ .pllfeed) (who : Master) (v : Word) (s : State) :
    s.clk.HeldBack (s.busWrite who r v).clk (if r = .pllcon then some (v.extractLsb' 0 2) else s.clk.pllconPend)
      (if r = .pllcfg then some (PllCfg.ofWord s.params v) else s.clk.pllcfgPend) := by
  by_cases h1 : r = .pllcon
  · subst h1
    exact ClockRegs.protectedWrite_heldBack s.draws ⟨rfl, rfl, .inr rfl, .inl rfl⟩ ⟨rfl, rfl, .inr rfl, .inr rfl⟩
  by_cases h2 : r = .pllcfg
  · subst h2
    exact ClockRegs.protectedWrite_heldBack s.draws ⟨rfl, rfl, .inl rfl, .inr rfl⟩ ⟨rfl, rfl, .inr rfl, .inr rfl⟩
  have hi := s.clk.intervene_heldBack s.draws
  rw [State.busWrite_unprotected h1 h2 hr, ClockRegs.put_frame, if_neg h1, if_neg h2]
  exact ⟨hi.pllconLive, hi.pllcfgLive, hi.pllconPend, hi.pllcfgPend⟩

theorem State.busRead_heldBack (who : Master) (r : RegId) (s : State) :
    s.clk.HeldBack (s.busRead who r).2.clk s.clk.pllconPend s.clk.pllcfgPend := by
  rw [s.busRead_clk]
  exact s.clk.intervene_heldBack s.draws

/-- Settles O22: only the commit of R41 moves a live half. -/
theorem liveHalvesChangeOnlyByACompletePair : Obligations.LiveHalvesChangeOnlyByACompletePair := by
  intro s who r v
  have hread := s.busRead_heldBack who r
  refine ⟨⟨hread.pllconLive, hread.pllcfgLive⟩, fun hne => ?_⟩
  by_cases hr : r = .pllfeed
  · subst hr
    obtain ⟨-, h⟩ | ⟨-, -, -, h⟩ | ⟨hv, hf, -⟩ | h := s.clk.feedWrite_cases s.draws v
    case inr.inr.inl => exact ⟨rfl, hv, hf⟩
    all_goals
      rw [State.busWrite_pllfeed, h] at hne
      exact absurd hne (by simp [ClockRegs.unsettle, ClockRegs.discard])
  · have hw := s.busWrite_heldBack hr who v
    exact absurd hne (by simp [hw.pllconLive, hw.pllcfgLive])

/-- With feed Idle and something pending an intervening transaction is the case of R44. -/
theorem ClockRegs.intervene_unsettled {c : ClockRegs} (hf : c.feed = .idle) (hp : c.anyPend = true) (k : Nat) :
    c.intervene k = (c.unsettle k, k + 2) := by
  simp [ClockRegs.intervene, hf, hp]

/-- R39 (c). -/
theorem ClockRegs.protectedWrite_unsettled {c : ClockRegs} (hf : c.feed = .idle) (hp : c.anyPend = true) (k : Nat)
    (put : ClockRegs → ClockRegs) : c.protectedWrite k put = ((put c).unsettle k, k + 2) := by
  simp [ClockRegs.protectedWrite, hf, hp]

/-- With feed Idle and something pending every write but one of PLLFEED sets the mark (R39 (c), R44). -/
theorem State.busWrite_marked {s : State} (hf : s.clk.feed = .idle) (hp : s.clk.anyPend = true) {r : RegId}
    (hr : r ≠ .pllfeed) (who : Master) (v : Word) : (s.busWrite who r v).clk.refused = true := by
  by_cases h1 : r = .pllcon
  · subst h1
    rw [State.busWrite_pllcon, ClockRegs.protectedWrite_unsettled hf hp]
    rfl
  by_cases h2 : r = .pllcfg
  · subst h2
    rw [State.busWrite_pllcfg, ClockRegs.protectedWrite_unsettled hf hp]
    rfl
  rw [State.busWrite_unprotected h1 h2 hr, ClockRegs.put_frame, State.intervene, ClockRegs.intervene_unsettled hf hp]
  rfl

/-- Settles O21: the three unsettled cases are `unsettle`, of what is pending with the value written. -/
theorem unsettledFeedCasesAreMarked : Obligations.UnsettledFeedCasesAreMarked := by
  intro s who r v hp
  refine ⟨fun hf => ⟨?_, fun hr => ?_⟩, fun hf hv => ?_⟩
  · obtain ⟨h1, h2, h3, h4⟩ := s.busRead_heldBack who r
    refine ⟨?_, h1, h2, h3, h4⟩
    rw [s.busRead_clk, ClockRegs.intervene_unsettled hf hp]
    rfl
  · obtain ⟨h1, h2, h3, h4⟩ := s.busWrite_heldBack hr who v
    rw [PllCfg.ofWord_eq] at h4
    exact ⟨State.busWrite_marked hf hp hr who v, h1, h2, h3, h4⟩
  · obtain ⟨h1, h2, h3, h4⟩ := s.clk.unsettle_heldBack s.draws
    rw [State.busWrite_pllfeed, ClockRegs.feedWrite_first_again hv hf hp]
    exact ⟨rfl, h1, h2, h3, h4⟩

/-! ### Registers that store at once -/

/-- When an intervening transaction sets the mark (R44). -/
theorem ClockRegs.intervene_refused_eq (c : ClockRegs) (k : Nat) :
    (c.intervene k).1.refused = (c.refused || (decide (c.feed = .idle) && c.anyPend)) := by
  obtain ⟨hf, h⟩ | ⟨hf, hp, h⟩ | ⟨hf, hp, h⟩ := c.intervene_cases k <;> rw [h, hf]
  · simp [ClockRegs.discard]
  · simp [ClockRegs.unsettle, hp]
  · simp [hp]

/-- An armed pair, or nothing pending: nothing is pending after an intervening transaction, and nothing was drawn. -/
theorem ClockRegs.intervene_settled {c : ClockRegs} (h : c.feed = .armed ∨ (c.pllconPend = none ∧ c.pllcfgPend = none))
    (k : Nat) : c.intervene k = (c.discard, k) := by
  cases hf : c.feed with
  | armed => exact ClockRegs.intervene_armed hf
  | idle =>
    obtain ⟨h1, h2⟩ := h.resolve_left (by simp [hf])
    rw [ClockRegs.intervene_idle hf (ClockRegs.anyPend_of_none h1 h2), ClockRegs.discard_eq_self h1 h2 hf]

theorem extractLsb'_zero_eq_ofNat {n : Nat} (k : Nat) (v : BitVec n) : v.extractLsb' 0 k = BitVec.ofNat k v.toNat := by
  rw [extractLsb'_zero_eq_iff, BitVec.toNat_ofNat]

/-- The low `k` bits of a word, read as a word. -/
theorem setWidth_extractLsb' {k : Nat} (hk : k ≤ 32) (v : Word) :
    (v.extractLsb' 0 k).setWidth 32 = BitVec.ofNat 32 (v.toNat % 2 ^ k) := by
  rw [← BitVec.toNat_inj, BitVec.toNat_setWidth_of_le hk, toNat_extractLsb'_eq, Nat.pow_zero, Nat.div_one,
    BitVec.toNat_ofNat, Nat.mod_eq_of_lt ((Nat.mod_le _ _).trans_lt v.isLt)]

/-- CCLKCFG keeps D_BITS bits of the word written (R45). -/
theorem setWidth_keepLow {k : Nat} (hk : k ≤ 8) (v : Word) :
    (keepLow k (v.extractLsb' 0 8)).setWidth 32 = BitVec.ofNat 32 (v.toNat % 2 ^ k) := by
  have hlt : v.toNat % 2 ^ k < 2 ^ 8 :=
    (Nat.mod_lt _ (Nat.two_pow_pos _)).trans_le (Nat.pow_le_pow_right (by decide) hk)
  rw [keepLow_extractLsb', Nat.pow_zero, Nat.div_one, ← BitVec.toNat_inj, BitVec.toNat_setWidth_of_le (by decide),
    BitVec.toNat_ofNat, BitVec.toNat_ofNat, Nat.mod_eq_of_lt hlt, Nat.mod_eq_of_lt (hlt.trans (by decide))]

/-- RTCCCR reads back the whole word written (R49). -/
theorem CalendarRegs.ccrWord_putCcr (c : CalendarRegs) (v : Word) : (c.putCcr v).ccrWord = v := by
  rw [← BitVec.toNat_inj, CalendarRegs.ccrWord_toNat]
  simp only [CalendarRegs.putCcr, toNat_extractLsb'_eq, BitVec.getLsbD, Nat.testBit_zero]
  have h : (decide (v.toNat % 2 = 1)).toNat = v.toNat % 2 := by
    obtain h | h := Nat.mod_two_eq_zero_or_one v.toNat <;> simp [h]
  rw [h]
  omega

/-- What a read of an unprotected read/write register returns after a write of it (R33, R45 to R49). -/
theorem readView_put {P : Params} (hd : P.dBits ≤ 8) {r : RegId} {k : Nat} (hk : unprotectedWidth P r = some k)
    (c : ClockRegs) (d : CalendarRegs) (v : Word) :
    readView (c.put P r v) (d.put r v) r = some (BitVec.ofNat 32 (v.toNat % 2 ^ k)) := by
  cases r <;> simp only [unprotectedWidth, Option.some.injEq, reduceCtorEq] at hk <;> subst hk <;>
    simp only [readView, ClockRegs.put, CalendarRegs.put, Option.some.injEq]
  case cclkcfg => exact setWidth_keepLow hd v
  case rtcccr => rw [CalendarRegs.ccrWord_putCcr, Nat.mod_eq_of_lt v.isLt, BitVec.ofNat_toNat, BitVec.setWidth_eq]
  all_goals exact setWidth_extractLsb' (by decide) v

/-- The registers that a write may change directly are neither protected nor PLLFEED. -/
theorem unprotected_of_width {P : Params} {r : RegId} {k : Nat} (h : unprotectedWidth P r = some k) :
    r ≠ .pllcon ∧ r ≠ .pllcfg ∧ r ≠ .pllfeed := by
  cases r <;> simp_all [unprotectedWidth]

/-- Settles O15: each of these writes is the intervening transaction and then the store of its own field. -/
theorem unprotectedRegisterHoldsTheValueWritten : Obligations.UnprotectedRegisterHoldsTheValueWritten := by
  intro s who v u wrote
  have hu : u = { s.intervene with hist := .write who .other v :: s.hist } :=
    State.busWrite_unprotected (by decide) (by decide) (by decide) who v s
  have hclk : u.clk = (s.clk.intervene s.draws).1 := by rw [hu]; rfl
  have stores {r : RegId} (h1 : r ≠ .pllcon) (h2 : r ≠ .pllcfg) (h3 : r ≠ .pllfeed) :
      wrote r { u with clk := u.clk.put s.params r v, rtc := s.rtc.put r v } := by
    rw [hu]
    exact State.busWrite_unprotected h1 h2 h3 who v s
  have hbit : (v.getLsbD 0) = decide (v.toNat % 2 = 1) := Nat.testBit_zero _
  have held := s.clk.intervene_heldBack s.draws
  rw [← hclk] at held
  refine ⟨?_, held.pllconPend, held.pllcfgPend, fun hset => ?_, ⟨?_, ?_, ?_, ?_⟩, ?_, ?_, ?_, ?_,
    ⟨?_, ?_, ?_, ?_, ?_, ?_, ?_, ?_⟩, fun r k hw hk => ?_⟩
  · rw [← ClockRegs.intervene_refused_eq s.clk s.draws, hclk, ← ClockRegs.intervene_frame]
    conv_lhs => rw [hu]
    rw [hu]
    rfl
  · have hd : u.draws = (s.clk.intervene s.draws).2 := by rw [hu]; rfl
    rw [hclk, hd, ClockRegs.intervene_settled hset]
    exact ⟨rfl, rfl, rfl⟩
  · exact stores (r := .pllstat) (by decide) (by decide) (by decide)
  · exact stores (r := .ct0) (by decide) (by decide) (by decide)
  · exact stores (r := .ct1) (by decide) (by decide) (by decide)
  · exact stores (r := .ct2) (by decide) (by decide) (by decide)
  · have hfield := keepLow_extractLsb' (n := 8) s.params.dBits 0 v
    rw [Nat.pow_zero, Nat.div_one] at hfield
    rw [← hfield]
    exact stores (r := .cclkcfg) (by decide) (by decide) (by decide)
  · rw [← extractLsb'_zero_eq_ofNat]
    exact stores (r := .clksrcsel) (by decide) (by decide) (by decide)
  · have hccrx : v.extractLsb' 1 31 = BitVec.ofNat 31 (v.toNat / 2) := by
      rw [← BitVec.toNat_inj, toNat_extractLsb'_eq, BitVec.toNat_ofNat, Nat.pow_one]
    rw [← hccrx, ← hbit]
    exact stores (r := .rtcccr) (by decide) (by decide) (by decide)
  · have hclear : decide (v.toNat % 2 = 0) = !v.getLsbD 0 := by
      rw [hbit]
      obtain h | h := Nat.mod_two_eq_zero_or_one v.toNat <;> simp [h]
    rw [hclear]
    exact stores (r := .rtcilr) (by decide) (by decide) (by decide)
  iterate 8
    · rw [← extractLsb'_zero_eq_ofNat]
      exact stores (by decide) (by decide) (by decide)
  · obtain ⟨⟨-, -, -, hd⟩, -⟩ := hw
    obtain ⟨h1, h2, h3⟩ := unprotected_of_width hk
    rw [State.busWrite_unprotected h1 h2 h3]
    exact readView_put hd hk _ _ v

end Sys2Proof.Machine
end

section
/-! PROOF. What a reset leaves, and the calendar value: its lengths, the setters from a valid time, the steps of the calendar
agent (R16, R50, R53, R181, R195). -/

namespace Sys2Proof.Machine

open Sys2Proof

/-! ### Reset -/

/-- Filling a range of 32-bit addresses leaves there the given bytes. -/
theorem Memory.read_fill_of_inside (n a : Nat) (bs : List Byte) {m : Memory} (hm : Memory.wf m = true)
    (h : a + n ≤ 2 ^ 32) {b : Nat} (hab : a ≤ b) (hb : b < a + n) :
    Memory.read (Memory.fill n a bs m) b = bs.getD (b - a) 0#8 := by
  induction n generalizing a bs m with
  | zero => omega
  | succ n ih =>
    rw [Memory.fill]
    obtain rfl | hlt := hab.eq_or_lt
    · rw [Memory.read_fill_of_outside _ _ _ _ _ (.inl (Nat.lt_succ_self a)), Memory.read_write_same hm, Nat.sub_self]
      cases bs <;> rfl
    · rw [ih (a + 1) bs.tail (Memory.wf_write hm (by omega) _) (by omega) hlt (by omega)]
      obtain ⟨i, rfl⟩ := Nat.exists_eq_add_of_lt hlt
      rw [show a + i + 1 - (a + 1) = i by omega, show a + i + 1 - a = i + 1 by omega]
      cases bs <;> rfl

/-- Settles O12. -/
theorem resetLeavesTheStateOfR53 : Obligations.ResetLeavesTheStateOfR53 := by
  intro s u hw hm t
  have hbound : s.params.sData.toNat + (s.params.sEbss.toNat - s.params.sData.toNat) ≤ 2 ^ 32 := by
    have h1 := s.params.sData.isLt
    have h2 := s.params.sEbss.isLt
    omega
  refine ⟨⟨rfl, rfl, rfl, rfl, rfl, rfl, rfl, rfl⟩, ⟨rfl, rfl, rfl, rfl, rfl⟩, ⟨rfl, rfl, rfl, rfl⟩,
    ⟨rfl, rfl, rfl, rfl, rfl, rfl, ?_⟩, fun hb => ?_, fun time en x hb => ?_, fun a ha hlt => ?_, fun a ha => ?_⟩
  · change (State.hwReset u s).rtc.tickif = u.tickif
    unfold State.hwReset
    cases u.battery <;> rfl
  · change (State.hwReset u s).rtc.time = _ ∧ (State.hwReset u s).rtc.clken = _ ∧ (State.hwReset u s).rtc.ccrx = _
    simp only [State.hwReset, hb, and_self]
  · change (State.hwReset u s).rtc.time = _ ∧ (State.hwReset u s).rtc.clken = _ ∧ (State.hwReset u s).rtc.ccrx = _
    simp only [State.hwReset, hb, and_self]
  · exact Memory.read_fill_of_inside _ _ _ hm hbound ha (by omega)
  · exact Memory.read_fill_of_outside _ _ _ _ _ (by omega)

/-! ### The lengths of months and the validity rule -/

theorem isLeap_iff (P : Params) (y : BitVec 16) :
    isLeap P y = true ↔ (y.toNat % 4 = 0 ∧ y ∉ P.leapFlips) ∨ (y.toNat % 4 ≠ 0 ∧ y ∈ P.leapFlips) := by
  by_cases h : y.toNat % 4 = 0 <;> by_cases hy : y ∈ P.leapFlips <;> simp [isLeap, h, hy]

/-- R16's table as a case distinction. -/
theorem daysInMonth_eq (P : Params) (mo : Nat) (y : BitVec 16) :
    daysInMonth P mo y =
      if mo = 0 ∨ 12 < mo then none
      else if mo = 4 ∨ mo = 6 ∨ mo = 9 ∨ mo = 11 then some 30
      else if mo = 2 then some (if isLeap P y then 29 else 28) else some 31 := by
  by_cases hmo : mo ≤ 12
  · interval_cases mo <;> rfl
  · rw [if_pos (.inr (by omega))]
    cases h : daysInMonth P mo y with
    | none => rfl
    | some k => exact absurd (month_mem_of_daysInMonth h).2 hmo

/-- Settles O46. -/
theorem validIsTheCalendarRule : Obligations.ValidIsTheCalendarRule := by
  intro P t y mo
  refine ⟨fun hflips => ?_, isLeap_iff P y, rfl, daysInMonth_eq P mo y, ?_⟩
  · rw [isLeap_iff, hflips]
    simp
  · have fits (hmonth : 1 ≤ t.month.toNat ∧ t.month.toNat ≤ 12) :
        (∃ k, daysInMonth P t.month.toNat t.year = some k ∧ t.dom.toNat ≤ k) ↔ t.dom.toNat ≤
          (if t.month.toNat = 4 ∨ t.month.toNat = 6 ∨ t.month.toNat = 9 ∨ t.month.toNat = 11 then 30
           else if t.month.toNat = 2 then (if isLeap P t.year then 29 else 28) else 31) := by
      rw [daysInMonth_eq, if_neg (by omega)]
      split
      · simp
      · split <;> simp
    rw [RtcTime.valid_iff, daysInYear]
    constructor
    · rintro ⟨h1, h2, h3, h4, h5, h6, h7, h8, h9⟩
      exact ⟨h1, h2, h3, h4, h5.1, h5.2, h6, (fits h5).1 h7, h8, h9⟩
    · rintro ⟨h1, h2, h3, h4, h5, h5', h6, h7, h8, h9⟩
      exact ⟨h1, h2, h3, h4, ⟨h5, h5'⟩, h6, (fits ⟨h5, h5'⟩).2 h7, h8, h9⟩

/-! ### The setters from a valid time -/

theorem le_of_daysInMonth {P : Params} {mo k : Nat} {y : BitVec 16} (h : daysInMonth P mo y = some k) : k ≤ 31 := by
  rw [daysInMonth_eq] at h
  split at h
  · cases h
  · split at h
    · cases h; decide
    · split at h
      · cases h
        split <;> decide
      · cases h; decide

theorem daysInYear_le (P : Params) (y : BitVec 16) : daysInYear P y ≤ 366 := by
  unfold daysInYear
  split <;> decide

theorem toNat_ofNat_of_lt {n v : Nat} (h : v < 2 ^ n) : (BitVec.ofNat n v).toNat = v := by
  rw [BitVec.toNat_ofNat, Nat.mod_eq_of_lt h]

section
variable {P : Params} {t : RtcTime} (h : t.valid P = true)
include h

/-! What a valid time asks of a new value for one of its fields. -/

theorem RtcTime.valid_sec (x : BitVec 6) : { t with sec := x }.valid P = true ↔ x.toNat ≤ 59 := by
  rw [RtcTime.valid_iff] at h ⊢
  tauto

theorem RtcTime.valid_min (x : BitVec 6) : { t with min := x }.valid P = true ↔ x.toNat ≤ 59 := by
  rw [RtcTime.valid_iff] at h ⊢
  tauto

theorem RtcTime.valid_hour (x : BitVec 5) : { t with hour := x }.valid P = true ↔ x.toNat ≤ 23 := by
  rw [RtcTime.valid_iff] at h ⊢
  tauto

theorem RtcTime.valid_dow (x : BitVec 3) : { t with dow := x }.valid P = true ↔ x.toNat ≤ 6 := by
  rw [RtcTime.valid_iff] at h ⊢
  tauto

theorem RtcTime.valid_dom (x : BitVec 5) : { t with dom := x }.valid P = true ↔
    1 ≤ x.toNat ∧ ∃ k, daysInMonth P t.month.toNat t.year = some k ∧ x.toNat ≤ k := by
  rw [RtcTime.valid_iff] at h ⊢
  tauto

theorem RtcTime.valid_month (x : BitVec 4) : { t with month := x }.valid P = true ↔
    1 ≤ x.toNat ∧ x.toNat ≤ 12 ∧ ∃ k, daysInMonth P x.toNat t.year = some k ∧ t.dom.toNat ≤ k := by
  rw [RtcTime.valid_iff] at h ⊢
  tauto

theorem RtcTime.valid_year (y : BitVec 16) : { t with year := y }.valid P = true ↔
    (∃ k, daysInMonth P t.month.toNat y = some k ∧ t.dom.toNat ≤ k) ∧ t.doy.toNat ≤ daysInYear P y := by
  rw [RtcTime.valid_iff] at h ⊢
  tauto

theorem RtcTime.valid_doy (x : BitVec 12) : { t with doy := x }.valid P = true ↔
    1 ≤ x.toNat ∧ x.toNat ≤ daysInYear P t.year := by
  rw [RtcTime.valid_iff] at h ⊢
  tauto

end

/-- A test of a number that fits its field is a test of the field (R104). -/
theorem accepts_iff {n v : Nat} {p : Nat → Prop} {q : BitVec n → Prop} (hq : ∀ x, q x ↔ p x.toNat)
    (hp : p v → v < 2 ^ n) : p v ↔ v < 2 ^ n ∧ q (BitVec.ofNat n v) := by
  rw [hq]
  constructor
  · intro h
    rw [toNat_ofNat_of_lt (hp h)]
    exact ⟨hp h, h⟩
  · rintro ⟨hlt, h⟩
    rwa [toNat_ofNat_of_lt hlt] at h

/-- A setter's outcome whose verdict is `p`, from a valid time that `p` leaves valid (R195 (c)). -/
theorem setter_verdict {s t : State} {new : RtcTime} {p : Prop} [Decidable p] (hv : s.ts.valid s.params = true)
    (hnew : p → new.valid s.params = true) {o : Host.Outcome State Fault Refusal}
    (ho : o = .next (if p then { s with ts := new, status := 0x100#32 } else { s with status := 0x120#32 }))
    (ht : o = .next t) :
    (t.ts.valid s.params = true ∧ (t.status = 0x100#32 ∨ t.status = 0x120#32)) ∧ (t.status = 0x100#32 ↔ p) := by
  rw [ho] at ht
  by_cases hp : p
  · rw [if_pos hp] at ht
    cases ht
    exact ⟨⟨hnew hp, .inl rfl⟩, iff_of_true rfl hp⟩
  · rw [if_neg hp] at ht
    cases ht
    exact ⟨⟨hv, .inr rfl⟩, iff_of_false (show (0x120#32 : Word) ≠ 0x100#32 by decide) hp⟩

/-- Settles O55: each verdict is the validity of the time with the new value, which fits its field. -/
theorem settersKeepAValidTimeValid : Obligations.SettersKeepAValidTimeValid := by
  intro s t v hrun hv
  obtain ⟨hsec, hmin, hhour, hdow⟩ := rangeSettersTakeOrRefuse s v hrun
  obtain ⟨hdom, hmon⟩ := dayAndMonthSettersCheckSiblings s v hrun
  obtain ⟨hyear, hdoy⟩ := yearSettersCheckSiblings s v hrun
  let dayOk (d : Nat) : Prop := 1 ≤ d ∧ ∃ k, daysInMonth s.params s.ts.month.toNat s.ts.year = some k ∧ d ≤ k
  let monthOk (mo : Nat) : Prop :=
    1 ≤ mo ∧ mo ≤ 12 ∧ ∃ k, daysInMonth s.params mo s.ts.year = some k ∧ s.ts.dom.toNat ≤ k
  have fitsDom : dayOk v.toNat → v.toNat < 2 ^ 5 := fun ⟨_, k, hk, hle⟩ => (hle.trans (le_of_daysInMonth hk)).trans_lt (by decide)
  have fitsDoy : (1 ≤ v.toNat ∧ v.toNat ≤ daysInYear s.params s.ts.year) → v.toNat < 2 ^ 12 :=
    fun ⟨_, hle⟩ => (hle.trans (daysInYear_le _ _)).trans_lt (by decide)
  have aSec := accepts_iff (p := (· ≤ 59)) (v := v.toNat) (RtcTime.valid_sec hv) (by omega)
  have aMin := accepts_iff (p := (· ≤ 59)) (v := v.toNat) (RtcTime.valid_min hv) (by omega)
  have aHour := accepts_iff (p := (· ≤ 23)) (v := v.toNat) (RtcTime.valid_hour hv) (by omega)
  have aDow := accepts_iff (p := (· ≤ 6)) (v := v.toNat) (RtcTime.valid_dow hv) (by omega)
  have aDom := accepts_iff (p := dayOk) (v := v.toNat) (RtcTime.valid_dom hv) fitsDom
  have aMon := accepts_iff (p := monthOk) (v := v.toNat) (RtcTime.valid_month hv) fun ⟨_, hle, _⟩ => by omega
  have aYear := RtcTime.valid_year hv v
  have aDoy := accepts_iff (p := fun d => 1 ≤ d ∧ d ≤ daysInYear s.params s.ts.year) (v := v.toNat)
    (RtcTime.valid_doy hv) fitsDoy
  have vSec := setter_verdict (t := t) hv (fun hp => (aSec.1 hp).2) hsec
  have vMin := setter_verdict (t := t) hv (fun hp => (aMin.1 hp).2) hmin
  have vHour := setter_verdict (t := t) hv (fun hp => (aHour.1 hp).2) hhour
  have vDow := setter_verdict (t := t) hv (fun hp => (aDow.1 hp).2) hdow
  have vDom := setter_verdict (t := t) hv (fun hp => (aDom.1 hp).2) hdom
  have vMon := setter_verdict (t := t) hv (fun hp => (aMon.1 hp).2) hmon
  have vYear := setter_verdict (t := t) hv aYear.2 hyear
  have vDoy := setter_verdict (t := t) hv (fun hp => (aDoy.1 hp).2) hdoy
  refine ⟨fun i hi ht => ?_, fun ht => (vSec ht).2.trans aSec, fun ht => (vMin ht).2.trans aMin,
    fun ht => (vHour ht).2.trans aHour, fun ht => (vDow ht).2.trans aDow, fun ht => (vDom ht).2.trans aDom,
    fun ht => (vMon ht).2.trans aMon, fun ht => (vYear ht).2.trans aYear.symm, fun ht => (vDoy ht).2.trans aDoy⟩
  simp only [List.mem_cons, List.not_mem_nil, or_false] at hi
  rcases hi with rfl | rfl | rfl | rfl | rfl | rfl | rfl | rfl
  · exact (vSec ht).1
  · exact (vMin ht).1
  · exact (vHour ht).1
  · exact (vDow ht).1
  · exact (vDom ht).1
  · exact (vMon ht).1
  · exact (vYear ht).1
  · exact (vDoy ht).1

/-! ### The calendar agent -/

theorem ofNat_toNat_add_one {n : Nat} (x : BitVec n) : BitVec.ofNat n (x.toNat + 1) = x + BitVec.ofNat n 1 := by
  rw [BitVec.ofNat_add, BitVec.ofNat_toNat, BitVec.setWidth_eq]

/-- On a valid day, the next day is in the same month exactly if the day is not the month's last. -/
theorem fitsMonth_succ_iff {P : Params} {t : RtcTime} (h : t.valid P = true) :
    fitsMonth P (t.dom.toNat + 1) t.month.toNat t.year = true ↔
      ¬ daysInMonth P t.month.toNat t.year = some t.dom.toNat := by
  obtain ⟨-, -, -, -, -, -, ⟨k, hk, hle⟩, -⟩ := RtcTime.valid_iff.1 h
  rw [fitsMonth_iff, hk, Option.some.injEq]
  constructor
  · rintro ⟨j, hj, hlt⟩ rfl
    cases hj
    omega
  · exact fun hne => ⟨k, rfl, by omega⟩

/-- The day after a valid day: the last day of a month goes over to the next month, and the last one of December to the
next year (spec/93 section 2). -/
theorem RtcTime.nextDay_of_valid {P : Params} {c : RtcTime} (h : c.valid P = true) :
    let lastDay := daysInMonth P c.month.toNat c.year = some c.dom.toNat
    c.nextDay P =
      { sec := 0#6, min := 0#6, hour := 0#5
        dow := BitVec.ofNat 3 ((c.dow.toNat + 1) % 7)
        dom := if lastDay then 1#5 else BitVec.ofNat 5 (c.dom.toNat + 1)
        month := if lastDay then (if c.month.toNat = 12 then 1#4 else BitVec.ofNat 4 (c.month.toNat + 1)) else c.month
        year := if lastDay ∧ c.month.toNat = 12 then BitVec.ofNat 16 ((c.year.toNat + 1) % 65536) else c.year
        doy := if lastDay ∧ c.month.toNat = 12 then 1#12 else BitVec.ofNat 12 (c.doy.toNat + 1) } := by
  intro lastDay
  have hyear : BitVec.ofNat 16 ((c.year.toNat + 1) % 65536) = c.year + 1#16 := by
    rw [← ofNat_toNat_add_one, ← BitVec.toNat_inj, BitVec.toNat_ofNat, BitVec.toNat_ofNat, Nat.mod_mod]
  obtain ⟨-, -, -, -, ⟨-, hmonth⟩, -⟩ := RtcTime.valid_iff.1 h
  rw [RtcTime.nextDay, hyear, ofNat_toNat_add_one, ofNat_toNat_add_one, ofNat_toNat_add_one]
  by_cases hlast : lastDay
  · rw [if_neg (mt (fitsMonth_succ_iff h).1 (not_not.2 hlast))]
    by_cases hdec : c.month.toNat = 12
    · rw [if_neg (by omega)]
      simp only [hlast, hdec, and_self, if_true]
    · rw [if_pos (by omega)]
      simp only [hlast, hdec, and_false, if_true, if_false]
  · rw [if_pos ((fitsMonth_succ_iff h).2 hlast)]
    simp only [hlast, false_and, if_false]

/-- One second later, from a valid time. -/
theorem RtcTime.succ_of_valid (P : Params) (c : RtcTime) :
    c.succ P =
      if c.sec.toNat < 59 then { c with sec := BitVec.ofNat 6 (c.sec.toNat + 1) }
      else if c.min.toNat < 59 then { c with sec := 0#6, min := BitVec.ofNat 6 (c.min.toNat + 1) }
      else if c.hour.toNat < 23 then { c with sec := 0#6, min := 0#6, hour := BitVec.ofNat 5 (c.hour.toNat + 1) }
      else c.nextDay P := by
  rw [ofNat_toNat_add_one, ofNat_toNat_add_one, ofNat_toNat_add_one]
  rfl

/-- A step of the calendar agent while `CLKEN` = 1 (R50). -/
theorem State.calendarStep_running {s : State} (h : s.rtc.clken = true) (t : RtcTime) (tick : Bool) :
    s.calendarStep t tick = { s with rtc := { s.rtc with time := t, tickif := s.rtc.tickif || tick } } := if_pos h

/-- Settles O56. -/
theorem calendarAgentIsFrozenWhileStopped : Obligations.CalendarAgentIsFrozenWhileStopped := by
  intro s t tick
  refine ⟨fun hen => State.calendarStep_running hen t tick,
    fun hen => ⟨State.calendar_stopped rfl hen, State.calendar_stopped rfl hen⟩, fun hen hv => ?_, fun hen hv => ?_⟩
  · intro c lastDay
    have hstep : s.agentStep .rtcSecond = s.calendarStep (c.succ s.params) true :=
      (if_pos hen).trans (if_pos hv)
    rw [hstep, State.calendarStep_running hen, Bool.or_true, RtcTime.succ_of_valid, RtcTime.nextDay_of_valid hv]
  · intro u
    have hstep : u = State.calendarStep _ true { s with draws := s.draws + 3 } :=
      (if_pos hen).trans (if_neg (by simp [hv]))
    rw [hstep, State.calendarStep_running (s := { s with draws := s.draws + 3 }) hen, Bool.or_true]

end Sys2Proof.Machine
end

section
/-! PROOF. The search of PLLSRCH: scanning the space in lexicographic order keeps the last viable triple and stops at the
first exact one (R152 to R154). -/

namespace Sys2Proof.Machine

open Sys2Proof

/-- The triple (m', n', d') comes before (m, n, d) in the order of R152. -/
abbrev lexLt (m' n' d' m n d : Nat) : Prop := m' < m ∨ (m' = m ∧ (n' < n ∨ (n' = n ∧ d' < d)))

theorem lexLe_of_not_lexLt {m n d m' n' d' : Nat} (h : ¬ lexLt m' n' d' m n d) : lexLe m n d m' n' d' := by
  simp only [lexLt, lexLe] at *
  omega

theorem lexLe_of_lexLt {m n d m' n' d' : Nat} (h : lexLt m' n' d' m n d) : lexLe m' n' d' m n d := by
  simp only [lexLt, lexLe] at *
  omega

/-- The search has scanned the space up to (m, n, d): no exact triple comes before it, and `last` is the greatest viable
one that does. -/
structure Scanned (P : Params) (des inp m n d : Nat) (last : Option (Nat × Nat × Nat)) : Prop where
  inexact : ∀ {m' n' d'}, inSpace P m' n' d' → lexLt m' n' d' m n d → viable P m' n' d' inp = true →
    fcpu m' n' d' inp ≠ des
  found : ∀ {a b c}, last = some (a, b, c) → inSpace P a b c ∧ viable P a b c inp = true
  greatest : ∀ {m' n' d'}, inSpace P m' n' d' → lexLt m' n' d' m n d → viable P m' n' d' inp = true →
    ∃ a b c, last = some (a, b, c) ∧ lexLe m' n' d' a b c

/-- A part of the search that ends at (m, n, d) is right: the exact triple is the least of the whole space, or the scan has
come that far. -/
def Search.Right (P : Params) (des inp m n d : Nat) : Search → Prop
  | .exact a b c => inSpace P a b c ∧ viable P a b c inp = true ∧ fcpu a b c inp = des ∧
      ∀ m' n' d', inSpace P m' n' d' → viable P m' n' d' inp = true → fcpu m' n' d' inp = des → lexLe a b c m' n' d'
  | .more last => Scanned P des inp m n d last

theorem viable_iff {P : Params} {m n d inp : Nat} :
    viable P m n d inp = true ↔ inLock P (fcco m n inp) = true ∧ cpuOk P (fcpu m n d inp) = true := by
  rw [viable, Bool.and_eq_true]

section
variable {P : Params} {des inp m n d : Nat} {last : Option (Nat × Nat × Nat)}

/-- The scan moves on past triples that are not viable. -/
theorem Scanned.skip {m₁ n₁ d₁ : Nat} (h : Scanned P des inp m n d last)
    (hskip : ∀ m' n' d', inSpace P m' n' d' → lexLt m' n' d' m₁ n₁ d₁ → viable P m' n' d' inp = true →
      lexLt m' n' d' m n d) : Scanned P des inp m₁ n₁ d₁ last where
  inexact hs hlt hv := h.inexact hs (hskip _ _ _ hs hlt hv) hv
  found := h.found
  greatest hs hlt hv := h.greatest hs (hskip _ _ _ hs hlt hv) hv

theorem lexLt_succ {m' n' d' : Nat} (h : lexLt m' n' d' m n (d + 1)) :
    lexLt m' n' d' m n d ∨ (m' = m ∧ n' = n ∧ d' = d) := by
  simp only [lexLt] at *
  omega

/-- The scan takes a viable triple that is not exact. -/
theorem Scanned.take (h : Scanned P des inp m n d last) (hs : inSpace P m n d) (hv : viable P m n d inp = true)
    (hne : fcpu m n d inp ≠ des) : Scanned P des inp m n (d + 1) (some (m, n, d)) where
  inexact hs' hlt hv' := by
    obtain hlt | ⟨rfl, rfl, rfl⟩ := lexLt_succ hlt
    · exact h.inexact hs' hlt hv'
    · exact hne
  found he := by
    cases he
    exact ⟨hs, hv⟩
  greatest hs' hlt hv' := by
    refine ⟨m, n, d, rfl, ?_⟩
    obtain hlt | ⟨rfl, rfl, rfl⟩ := lexLt_succ hlt
    · exact lexLe_of_lexLt hlt
    · exact .inr ⟨rfl, .inr ⟨rfl, le_rfl⟩⟩

/-- The scan ends at the least exact triple. -/
theorem Scanned.stop (h : Scanned P des inp m n d last) (hs : inSpace P m n d) (hv : viable P m n d inp = true)
    (he : fcpu m n d inp = des) (m₁ n₁ d₁ : Nat) : (Search.exact m n d).Right P des inp m₁ n₁ d₁ :=
  ⟨hs, hv, he, fun _ _ _ hs' hv' he' => lexLe_of_not_lexLt fun hlt => h.inexact hs' hlt hv' he'⟩

/-- The innermost loop, from the divider `d` to the last one. -/
theorem searchDividers_right (hm : m < 2 ^ P.mBits) (hn : n < 2 ^ P.nBits) (hlock : inLock P (fcco m n inp) = true)
    (k : Nat) (hk : d + k = 2 ^ P.dBits) (h : Scanned P des inp m n d last) :
    (searchDividers P des m n (fcco m n inp) (List.range' d k) last).Right P des inp m n (2 ^ P.dBits) := by
  induction k generalizing d last with
  | zero =>
    obtain rfl : d = 2 ^ P.dBits := hk
    exact h
  | succ k ih =>
    have hs : inSpace P m n d := ⟨hm, hn, by omega⟩
    have next (l : Option (Nat × Nat × Nat)) (hl : Scanned P des inp m n (d + 1) l) := ih (d := d + 1) (by omega) hl
    rw [List.range'_succ, searchDividers]
    split
    · next hok =>
      have hv : viable P m n d inp = true := viable_iff.2 ⟨hlock, hok⟩
      split
      · next he => exact h.stop hs hv he _ _ _
      · next he => exact next _ (h.take hs hv he)
    · next hok =>
      refine next _ (h.skip fun m' n' d' _ hlt hv => (lexLt_succ hlt).resolve_right ?_)
      rintro ⟨rfl, rfl, rfl⟩
      exact hok (viable_iff.1 hv).2

theorem dMax_succ (P : Params) : dMax P + 1 = 2 ^ P.dBits := Nat.sub_add_cancel (Nat.two_pow_pos _)

theorem nMax_succ (P : Params) : nMax P + 1 = 2 ^ P.nBits := Nat.sub_add_cancel (Nat.two_pow_pos _)

theorem mMax_succ (P : Params) : mMax P + 1 = 2 ^ P.mBits := Nat.sub_add_cancel (Nat.two_pow_pos _)

/-- The middle loop, from the pre-divider `n` to the last one. -/
theorem searchPredividers_right (hm : m < 2 ^ P.mBits) (k : Nat) (hk : n + k = 2 ^ P.nBits)
    (h : Scanned P des inp m n 0 last) :
    (searchPredividers P des inp m (List.range' n k) last).Right P des inp m (2 ^ P.nBits) 0 := by
  induction k generalizing n last with
  | zero =>
    obtain rfl : n = 2 ^ P.nBits := hk
    exact h
  | succ k ih =>
    have next (l : Option (Nat × Nat × Nat)) (hl : Scanned P des inp m (n + 1) 0 l) := ih (n := n + 1) (by omega) hl
    rw [List.range'_succ, searchPredividers]
    split
    · next hlock =>
      have hd := searchDividers_right hm (show n < 2 ^ P.nBits by omega) hlock (dMax P + 1)
        (by rw [Nat.zero_add, dMax_succ]) h
      split
      · next he =>
        rw [he] at hd
        exact hd
      · next he =>
        rw [he] at hd
        refine next _ (hd.skip fun m' n' d' hs hlt _ => ?_)
        simp only [lexLt, inSpace] at *
        omega
    · next hlock =>
      refine next _ (h.skip fun m' n' d' _ hlt hv => ?_)
      have hne : ¬ (m' = m ∧ n' = n) := by
        rintro ⟨rfl, rfl⟩
        exact hlock (viable_iff.1 hv).1
      simp only [lexLt] at *
      omega

/-- The outermost loop, from the multiplier `m` to the last one. -/
theorem searchMultipliers_right (k : Nat) (hk : m + k = 2 ^ P.mBits) (h : Scanned P des inp m 0 0 last) :
    (searchMultipliers P des inp (List.range' m k) last).Right P des inp (2 ^ P.mBits) 0 0 := by
  induction k generalizing m last with
  | zero =>
    obtain rfl : m = 2 ^ P.mBits := hk
    exact h
  | succ k ih =>
    have hn := searchPredividers_right (show m < 2 ^ P.mBits by omega) (nMax P + 1) (by rw [Nat.zero_add, nMax_succ]) h
    rw [List.range'_succ, searchMultipliers]
    split
    · next he =>
      rw [he] at hn
      exact hn
    · next he =>
      rw [he] at hn
      refine ih (m := m + 1) (by omega) (hn.skip fun m' n' d' hs hlt _ => ?_)
      simp only [lexLt, inSpace] at *
      omega

end

/-- The whole search (R152, R153). -/
theorem search_right (P : Params) (des inp : Nat) : (search P des inp).Right P des inp (2 ^ P.mBits) 0 0 := by
  have start : Scanned P des inp 0 0 0 none :=
    ⟨fun _ hlt => by simp only [lexLt] at hlt; omega, nofun, fun _ hlt => by simp only [lexLt] at hlt; omega⟩
  exact searchMultipliers_right (mMax P + 1) (by rw [Nat.zero_add, mMax_succ]) start

theorem saturate_toNat (f : Nat) : (saturate f).toNat = Nat.min f (2 ^ 32 - 1) := by
  have hlt : Nat.min f (2 ^ 32 - 1) < 2 ^ 32 := (Nat.min_le_right _ _).trans_lt (by decide)
  rw [saturate, toNat_ofNat_of_lt hlt]

/-- A number within its field's width is that field's value. -/
theorem toNat_keepLow_ofNat {n k v : Nat} (hk : k ≤ n) (hv : v < 2 ^ k) : (keepLow k (BitVec.ofNat n v)).toNat = v := by
  have hlt : v < 2 ^ n := hv.trans_le (Nat.pow_le_pow_right (by decide) hk)
  rw [keepLow, toNat_ofNat_of_lt hlt, Nat.mod_eq_of_lt hv, toNat_ofNat_of_lt hlt]

/-- PR holds the triple the search found (R153). -/
theorem PllTriple.fit_ofNats {P : Params} (hw : P.widthsOk) {m n d : Nat} (hs : inSpace P m n d) :
    ((PllTriple.ofNats m n d).fit P).m.toNat = m ∧ ((PllTriple.ofNats m n d).fit P).n.toNat = n ∧
      ((PllTriple.ofNats m n d).fit P).d.toNat = d := by
  obtain ⟨⟨-, hm⟩, ⟨-, hn⟩, -, hd⟩ := hw
  exact ⟨toNat_keepLow_ofNat hm hs.1, toNat_keepLow_ofNat hn hs.2.1, toNat_keepLow_ofNat hd hs.2.2⟩

/-- The state PLLSRCH leaves when its search ends with `r` (R153). -/
def State.searched (s : State) : Search → State
  | .exact m n d => (s.foundTriple m n d s.x1.toNat).setFlags [.done, .viable, .exact]
  | .more (some (m, n, d)) => (s.foundTriple m n d s.x1.toNat).setFlags [.done, .viable]
  | .more none => s.drawnTriple.setFlags [.done]

theorem exec_pllsrch {s : State} (hrun : s.run = .running) :
    exec .pllsrch s = .next (s.searched (search s.params s.x0.toNat s.x1.toNat)) := by
  simp only [exec, execPllsrch, whenRunning_of_running hrun]
  cases search s.params s.x0.toNat s.x1.toNat with
  | exact m n d => rfl
  | more last => cases last <;> rfl

/-- At the end of the space everything has been scanned. -/
theorem lexLt_of_inSpace {P : Params} {m n d : Nat} (h : inSpace P m n d) : lexLt m n d (2 ^ P.mBits) 0 0 := .inl h.1

/-- Settles O37: the outcome follows how the search ends, after the whole space or at an exact triple. -/
theorem pllsrchFindsLeastExactElseLastViable : Obligations.PllsrchFindsLeastExactElseLastViable := by
  rintro s hrun ⟨hwidths, -⟩ P des inp pll cpu good
  have hgood (m n d : Nat) : viable P m n d inp = true ↔ good m n d := by
    simp only [viable_iff, inLock, cpuOk, decide_eq_true_eq, and_assoc]
    exact Iff.rfl
  have hsearch : (search P des inp).Right P des inp (2 ^ P.mBits) 0 0 := search_right P des inp
  rw [exec_pllsrch hrun]
  change ∃ t, Host.Outcome.next (s.searched (search P des inp)) = .next t ∧ _
  generalize search P des inp = r at hsearch ⊢
  rcases r with ⟨m, n, d⟩ | _ | ⟨m, n, d⟩ <;> refine ⟨_, rfl, rfl, ?_⟩
  · obtain ⟨hspace, hv, hdes, hleast⟩ := hsearch
    obtain ⟨hm, hn, hd⟩ := PllTriple.fit_ofNats hwidths hspace
    refine .inl ?_
    simp only [State.searched, State.setFlags_pr, State.foundTriple, hm, hn, hd]
    exact ⟨rfl, hspace, (hgood m n d).1 hv, hdes, saturate_toNat _, saturate_toNat _, rfl,
      fun m' n' d' hs' hg' he' => hleast m' n' d' hs' ((hgood _ _ _).2 hg') he'⟩
  · refine .inr (.inr ⟨rfl, fun m' n' d' hs' hg' => ?_⟩)
    obtain ⟨a, b, c, hlast, -⟩ := hsearch.greatest hs' (lexLt_of_inSpace hs') ((hgood m' n' d').2 hg')
    cases hlast
  · obtain ⟨hspace, hv⟩ := hsearch.found rfl
    obtain ⟨hm, hn, hd⟩ := PllTriple.fit_ofNats hwidths hspace
    refine .inr (.inl ?_)
    simp only [State.searched, State.setFlags_pr, State.foundTriple, hm, hn, hd]
    refine ⟨rfl, hspace, (hgood m n d).1 hv, saturate_toNat _, saturate_toNat _, rfl, fun m' n' d' hs' hg' => ?_⟩
    have hv' := (hgood m' n' d').2 hg'
    obtain ⟨a, b, c, hlast, hle⟩ := hsearch.greatest hs' (lexLt_of_inSpace hs') hv'
    cases hlast
    exact ⟨hsearch.inexact hs' (lexLt_of_inSpace hs') hv', hle⟩

/-- Settles O38: a larger divider lowers the CPU frequency, so the largest one is viable too and comes last. -/
theorem inexactResultHasTheLargestDivider : Obligations.InexactResultHasTheLargestDivider := by
  intro s t hrun hw ht hstatus
  obtain ⟨u, hu, -, hcases⟩ := pllsrchFindsLeastExactElseLastViable s hrun hw
  obtain rfl : t = u := Host.Outcome.next.inj (ht.symm.trans hu)
  obtain ⟨h, -⟩ | ⟨-, hspace, ⟨hmin, hmax, hcpu⟩, -, -, -, hlast⟩ | ⟨h, -⟩ := hcases
  · exact absurd (h.symm.trans hstatus) (by decide)
  · obtain ⟨hm, hn, hd⟩ := hspace
    have htop : inSpace s.params t.pr.m.toNat t.pr.n.toNat (2 ^ s.params.dBits - 1) :=
      ⟨hm, hn, Nat.sub_lt (Nat.two_pow_pos _) Nat.one_pos⟩
    have hslower : 2 * (t.pr.m.toNat + 1) * s.x1.toNat / (t.pr.n.toNat + 1) / (2 ^ s.params.dBits - 1 + 1) ≤
        2 * (t.pr.m.toNat + 1) * s.x1.toNat / (t.pr.n.toNat + 1) / (t.pr.d.toNat + 1) :=
      Nat.div_le_div_left (by omega) (Nat.succ_pos _)
    obtain ⟨-, hle⟩ := hlast _ _ _ htop ⟨hmin, hmax, hslower.trans hcpu⟩
    simp only [lexLe] at hle
    omega
  · exact absurd (h.symm.trans hstatus) (by decide)

end Sys2Proof.Machine
end

section
/-! PROOF. A command that nothing disturbs: it comes to its end, with DONE or refused, and whatever STATUS held before it
makes no difference (R26, R210). -/

namespace Sys2Proof.Machine

open Sys2Proof

/-- A command can run and no other agent takes a step, ever. -/
structure State.Calm (s : State) : Prop where
  ready : s.ready
  quiet : s.quiet

section
variable {s t : State}

theorem State.Calm.run (h : s.Calm) : s.run = .running := h.ready.1

theorem State.Calm.hang (h : s.Calm) : s.tickHang = none := h.ready.2.2

theorem State.Calm.pass (h : s.Calm) : Machine.pass s = .ok () s := pass_quiet h.quiet h.run h.hang

theorem State.afterSlot_quiet (h : s.quiet) : s.afterSlot = s := by
  rw [State.afterSlot, State.nextSlot_quiet h, State.dropSlot_quiet h, State.agentSteps_nil]

theorem SameButBus.calm (hb : SameButBus s t) (h : s.Calm) : t.Calm := by
  rw [hb.eq]
  exact ⟨h.ready, h.quiet⟩

theorem OwnUpdate.calm (ho : OwnUpdate s t) (h : s.Calm) : t.Calm := by
  rw [ho.eq]
  exact ⟨h.ready, h.quiet⟩

end

/-- Nothing cuts a command that nothing disturbs. -/
theorem calm_keeps : Keeps State.Calm (fun _ => False) where
  pass {s} h := by
    rw [h.pass]
    exact ⟨h, h.run, h.hang⟩
  read {s} r h := (s.busRead_frame .block r).calm h.holds
  write {s} r v h := (s.busWrite_frame .block r v).calm h.holds
  own ho h := ho.calm h

theorem calm_keepsBoot : KeepsBoot State.Calm := ⟨fun h => ⟨h.ready, h.quiet⟩, fun _ _ h => ⟨h.ready, h.quiet⟩⟩

/-- A read of a word of the calendar that nothing disturbs, whatever is pending. -/
theorem txRead_calm {s : State} (h : s.Calm) {r : RegId} {v : Word} (hv : readView s.clk s.rtc r = some v) :
    ∃ t, txRead r s = .ok v t ∧ SameButBus s t ∧ t.rtc = s.rtc := by
  refine ⟨(s.busRead .block r).2, ?_, s.busRead_frame .block r, s.busRead_rtc .block r⟩
  rw [txRead_quiet h.quiet h.run h.hang, State.busRead_value hv]

theorem fullRead_calm {s : State} (h : s.Calm) :
    ∃ t, fullRead s = .ok s.rtc.time.words t ∧ SameButBus s t ∧ t.rtc = s.rtc := by
  obtain ⟨t₀, e₀, b₀, c₀⟩ := txRead_calm (r := .ct0) h rfl
  obtain ⟨t₁, e₁, b₁, c₁⟩ := txRead_calm (r := .ct1) (b₀.calm h) rfl
  obtain ⟨t₂, e₂, b₂, c₂⟩ := txRead_calm (r := .ct2) (b₁.calm (b₀.calm h)) rfl
  refine ⟨t₂, ?_, (b₀.trans b₁).trans b₂, c₂.trans (c₁.trans c₀)⟩
  rw [fullRead, e₀, Run.andThen_ok, e₁, Run.andThen_ok, e₂, Run.andThen_ok, c₁, c₀]
  rfl

/-- A round of the tear-free read that nothing disturbs succeeds, whatever is pending (R171). -/
theorem readRound_calm {s : State} (h : s.Calm) :
    ∃ t, readRound s = .ok (some s.rtc.time.words) t ∧ SameButBus s t ∧ t.rtc = s.rtc := by
  obtain ⟨t, e, b, c⟩ := fullRead_calm h
  obtain ⟨u, e', b', c'⟩ := fullRead_calm (b.calm h)
  refine ⟨u, ?_, b.trans b', c'.trans c⟩
  rw [readRound, e, Run.andThen_ok, e', Run.andThen_ok, c, if_pos rfl]

/-! ### No command faults -/

theorem paramsAre_keepsAll (P : Params) : KeepsAll (fun s => s.params = P) (fun s => s.params = P) where
  slot {s} h := ((State.agentSteps_keeps s.nextSlot s.dropSlot).1.trans s.dropSlot_params).trans h
  again {s} wd h := (s.tickAgain_frame wd).slots.params.trans h
  read {s} r h := (s.busRead_frame .block r).slots.params.trans h.holds
  write {s} r v h := (s.busWrite_frame .block r v).slots.params.trans h.holds
  own ho h := by
    rw [ho.eq]
    exact h
  land h := h
  flight _ h := h.holds
  rest h := h

theorem calm_rounds : Rounds State.Calm (fun _ => False) False := fun s hs => by
  obtain ⟨t, e, b, -⟩ := readRound_calm hs
  have ht := b.calm hs
  rw [e]
  exact ⟨⟨ht, ht.run, ht.hang⟩, nofun⟩

/-- DONE is bit 8 of a STATUS word that has it among its flags. -/
theorem statusOf_done_bit (fs : List Flag) : (statusOf (.done :: fs)).getLsbD 8 = true := by
  simp [statusOf, Flag.bit]

/-- Settles O7: only BOOT's copy can stop, which a well-formed parameter set excludes; undisturbed, a command ends or is
refused. -/
theorem everyCommandEndsInANextState : Obligations.EveryCommandEndsInANextState := by
  rintro i s ⟨-, -, -, hregions, himage, -⟩
  have hP := paramsAre_keepsAll s.params
  obtain ⟨t, ht, -⟩ := (hP.keeps.exec (S := False) hP.rounds i
    (fun _ => ⟨⟨fun h => h, fun _ _ h => h⟩, .inr ⟨hregions, himage⟩⟩) rfl).exists_next
  refine ⟨t, ht, fun hready hquiet => ?_⟩
  have hend := (calm_keeps.exec (S := True) calm_rounds i (fun _ => ⟨calm_keepsBoot, .inl trivial⟩)
    ⟨hready, hquiet⟩).next ht
  cases hend with
  | done hu _ => exact ⟨hu.ready.2.1, hu.run, .inl (statusOf_done_bit _)⟩
  | refused hu => exact ⟨hu.ready.2.1, hu.run, .inr rfl⟩
  | cut hu => exact hu.elim
  | flight c hF _ => exact hF.elim

/-! ### No command reads a flag -/

/-- The state with another STATUS word. -/
def State.flagged (w : Word) (s : State) : State := { s with status := w }

/-- The same run, in states with another STATUS word. -/
def Run.flagged {α : Type} (w : Word) : Run α → Run α
  | .ok a s => .ok a (s.flagged w)
  | .cut s => .cut (s.flagged w)
  | .stop f => .stop f

/-- A part of a command that carries STATUS along unread, where nothing disturbs it. -/
structure Blind {α : Type} (b : State → Run α) : Prop where
  carries : ∀ {s : State}, s.Calm → ∀ w, b (s.flagged w) = (b s).flagged w
  calm : ∀ {s : State}, s.Calm → (b s).Ends (fun _ => State.Calm) (fun _ => False) True

/-- A rest of a command whose end does not depend on STATUS. -/
def Settled (b : State → Run Unit) : Prop := ∀ s : State, s.Calm → ∀ w, b (s.flagged w) = b s

theorem State.Calm.flagged {s : State} (h : s.Calm) (w : Word) : (s.flagged w).Calm := ⟨h.ready, h.quiet⟩

section
variable {α β : Type} {b : State → Run α}

theorem Blind.andThen {k : α → State → Run β} (hb : Blind b) (hk : ∀ a, Blind (k a)) :
    Blind fun s => (b s).andThen k where
  carries {s} hs w := by
    have hc := hb.calm hs
    simp only [hb.carries hs]
    cases hr : b s with
    | ok a t => exact (hk a).carries (by rw [hr] at hc; exact hc) w
    | cut t => rfl
    | stop f => rfl
  calm hs := (hb.calm hs).andThen fun a _ ht => (hk a).calm ht

/-- The rest may look at what the part before it returned. -/
theorem Blind.settled_of_value {k : α → State → Run Unit} (hb : Blind b)
    (hk : ∀ {s t : State} {a : α}, s.Calm → b s = .ok a t → t.Calm → ∀ w, k a (t.flagged w) = k a t) :
    Settled fun s => (b s).andThen k := by
  intro s hs w
  have hc := hb.calm hs
  simp only [hb.carries hs]
  cases hr : b s with
  | ok a t =>
    rw [hr] at hc
    exact hk hs hr hc w
  | cut t =>
    rw [hr] at hc
    exact hc.elim
  | stop f => rfl

theorem Blind.settled {k : α → State → Run Unit} (hb : Blind b) (hk : ∀ a, Settled (k a)) :
    Settled fun s => (b s).andThen k := hb.settled_of_value fun _ _ ht => hk _ _ ht

end

theorem Settled.setFlags (fs : List Flag) : Settled fun s => .ok () (s.setFlags fs) := fun _ _ _ => rfl

theorem State.busRead_flagged (who : Master) (r : RegId) (s : State) (w : Word) :
    (s.flagged w).busRead who r = ((s.busRead who r).1, (s.busRead who r).2.flagged w) := by
  cases r <;> rfl

theorem State.busWrite_flagged (who : Master) (r : RegId) (v : Word) (s : State) (w : Word) :
    (s.flagged w).busWrite who r v = (s.busWrite who r v).flagged w := by
  cases r <;> rfl

theorem blind_ok {α : Type} (a : α) : Blind fun s => .ok a s := ⟨fun _ _ => rfl, fun h => h⟩

theorem blind_pass : Blind pass where
  carries h w := by rw [h.pass, (h.flagged w).pass]; rfl
  calm h := by rw [h.pass]; exact h

theorem blind_txRead (r : RegId) : Blind (txRead r) :=
  blind_pass.andThen fun _ =>
    ⟨fun _ w => by rw [State.busRead_flagged]; rfl, fun {t} h => (t.busRead_frame .block r).calm h⟩

theorem blind_txWrite (r : RegId) (v : Word) : Blind (txWrite r v) :=
  blind_pass.andThen fun _ =>
    ⟨fun _ w => by rw [State.busWrite_flagged]; rfl, fun {t} h => (t.busWrite_frame .block r v).calm h⟩

theorem blind_txWrites (ws : List (RegId × Word)) : Blind (txWrites ws) := by
  induction ws with
  | nil => exact blind_ok ()
  | cons w ws ih => exact (blind_txWrite w.1 w.2).andThen fun _ => ih

theorem blind_disableBody : Blind disableBody := (blind_txRead _).andThen fun _ => blind_txWrites _

/-- TS is read, and it is no part of STATUS. -/
theorem blind_calendarBody : Blind calendarBody where
  carries {s} h w := ((blind_txRead .rtcccr).andThen fun c => blind_txWrites (calendarWrites c s.ts)).carries h w
  calm h := (calm_keeps.calendarBody h)

theorem blind_fullRead : Blind fullRead :=
  (blind_txRead _).andThen fun _ => (blind_txRead _).andThen fun _ => (blind_txRead _).andThen fun _ =>
    blind_ok _

theorem blind_readRound : Blind readRound :=
  blind_fullRead.andThen fun _ => blind_fullRead.andThen fun _ => blind_ok _

theorem blind_validateBody : Blind validateBody where
  carries {s} h w := by
    unfold validateBody
    change (if s.ts.valid s.params then _ else _) = Run.flagged w (if s.ts.valid s.params then _ else _)
    split
    · rfl
    · exact (blind_calendarBody.andThen fun _ => blind_ok Flag.replaced).carries
        (s := { s with ts := epoch s.params }) ⟨h.ready, h.quiet⟩ w
  calm h := (calm_keeps.validateBody h).imp fun _ _ ht => ht.1

theorem blind_txMemRead (a : Nat) : Blind (txMemRead a) :=
  blind_pass.andThen fun _ => by
    by_cases ha : a < 2 ^ 32
    · simp only [if_pos ha]
      exact ⟨fun _ _ => rfl, fun h => ⟨h.ready, h.quiet⟩⟩
    · simp only [if_neg ha]
      exact ⟨fun _ _ => rfl, fun _ => trivial⟩

theorem blind_txMemWrite (a : Nat) (v : Byte) : Blind (txMemWrite a v) :=
  blind_pass.andThen fun _ => by
    by_cases ha : a < 2 ^ 32
    · simp only [if_pos ha]
      exact ⟨fun _ _ => rfl, fun h => ⟨h.ready, h.quiet⟩⟩
    · simp only [if_neg ha]
      exact ⟨fun _ _ => rfl, fun _ => trivial⟩

theorem blind_copyBytes (n src dst : Nat) : Blind (copyBytes n src dst) := by
  induction n generalizing src dst with
  | zero => exact blind_ok ()
  | succ n ih => exact (blind_txMemRead src).andThen fun b => (blind_txMemWrite dst b).andThen fun _ => ih _ _

theorem blind_zeroBytes (n a : Nat) : Blind (zeroBytes n a) := by
  induction n generalizing a with
  | zero => exact blind_ok ()
  | succ n ih => exact (blind_txMemWrite a 0#8).andThen fun _ => ih _

/-- The memory phase copies by the parameter set, which is no part of STATUS either. -/
theorem blind_memoryBody : Blind memoryBody where
  carries {s} h w := by
    have hcopy := (blind_copyBytes (s.params.sEdata.toNat - s.params.sData.toNat) s.params.sIdata.toNat
      s.params.sData.toNat).andThen fun _ => blind_zeroBytes (s.params.sEbss.toNat - s.params.sEdata.toNat)
        s.params.sEdata.toNat
    exact hcopy.carries (s := s.setStacks) ⟨h.ready, h.quiet⟩ w
  calm h := calm_keeps.memoryBody calm_keepsBoot (.inl trivial) h

theorem settled_finishRead (c : InFlight) : Settled (finishRead c) := by
  cases c with
  | rtcread => exact fun _ _ _ => rfl
  | rtcinit => exact blind_validateBody.settled fun f => Settled.setFlags _
  | boot => exact blind_validateBody.settled fun f => blind_disableBody.settled fun _ _ _ _ => rfl

/-- A round that nothing disturbs succeeds, so the command does not stay in flight with the old STATUS. -/
theorem settled_readLoop (c : InFlight) : Settled (readLoop c) :=
  blind_readRound.settled_of_value fun {s t r} hs hr ht w => by
    obtain ⟨u, hu, -⟩ := readRound_calm hs
    rw [hu] at hr
    cases hr
    exact settled_finishRead c (t.captured s.rtc.time.words) ⟨ht.ready, ht.quiet⟩ w

theorem Settled.outcome {b : State → Run Unit} (hb : Settled b) {s : State} (hs : s.Calm) (w : Word) :
    whenRunning (s.flagged w) (b (s.flagged w)).outcome = whenRunning s (b s).outcome := by
  rw [hb s hs w, whenRunning_of_running hs.run, whenRunning_of_running (hs.flagged w).run]

theorem settled_freqrb : Settled fun s =>
    (txRead .clksrcsel s).andThen fun sel t =>
    (txRead .pllstat t).andThen fun stat t =>
      if stat.getLsbD 24 && stat.getLsbD 25 then
        (txRead .cclkcfg t).andThen fun cc t => .ok () (t.readbackDone sel stat (some cc))
      else .ok () (t.readbackDone sel stat none) := by
  have done (sel stat : Word) (cc : Option Word) : Settled fun t => .ok () (t.readbackDone sel stat cc) := fun t _ w => by
    cases hsrc : srcHz t.params (sel.extractLsb' 0 2) <;> simp only [State.readbackDone, State.flagged, hsrc] <;> rfl
  refine (blind_txRead _).settled fun sel => (blind_txRead _).settled fun stat => ?_
  split
  · exact (blind_txRead _).settled fun cc => done _ _ _
  · exact done _ _ _

/-- Settles O6: STATUS is carried along unread and written at the end. -/
theorem noCommandReadsAFlag : Obligations.NoCommandReadsAFlag := by
  intro i s w hready hquiet
  have hs : s.Calm := ⟨hready, hquiet⟩
  cases i with
  | regrd r => exact Settled.outcome ((blind_txRead r).settled fun v _ _ _ => rfl) hs w
  | regwr r =>
    exact Settled.outcome
      ((blind_txWrite r s.x0).settled fun _ => .setFlags _) hs w
  | feed => exact Settled.outcome ((blind_txWrites feedPair).settled fun _ => .setFlags _) hs w
  | clkdis => exact Settled.outcome (blind_disableBody.settled fun _ => .setFlags _) hs w
  | freqrb => exact settled_freqrb.outcome hs w
  | rtcread => exact (settled_readLoop .rtcread).outcome hs w
  | rtcinit => exact (settled_readLoop .rtcinit).outcome hs w
  | rtcset =>
    change whenRunning _ (if s.ts.valid s.params then _ else _) = whenRunning s (if s.ts.valid s.params then _ else _)
    split
    · exact Settled.outcome (blind_calendarBody.settled fun _ => .setFlags _) hs w
    · rfl
  | boot =>
    change whenRunning _ (if s.booted then _ else _) = whenRunning s (if s.booted then _ else _)
    split
    · rfl
    · exact Settled.outcome (blind_memoryBody.settled fun _ => settled_readLoop .boot) hs w
  | pllsrch =>
    rw [exec_pllsrch hs.run, exec_pllsrch (s := { s with status := w }) hs.run]
    rcases search s.params s.x0.toNat s.x1.toNat with ⟨m, n, d⟩ | _ | ⟨m, n, d⟩ <;> rfl
  | _ => rfl

end Sys2Proof.Machine
end

section
/-! PROOF. The whole next state of a command that nothing disturbs: reads, the feed pair, the disable sequence, the calendar
write, the frequency readback and the calendar's validation (R120 to R128, R157, R171, R185). -/

namespace Sys2Proof.Machine

open Sys2Proof

/-! ### Writes that nothing disturbs -/

/-- The clock registers and the draw index after a write of `w.2` to `w.1`. -/
def ClockRegs.written (P : Params) (f : Fed) (w : RegId × Word) : Fed :=
  match w.1 with
  | .pllfeed => f.1.feedWrite f.2 w.2
  | .pllcon => f.1.protectedWrite f.2 (ClockRegs.pendPllcon w.2)
  | .pllcfg => f.1.protectedWrite f.2 (ClockRegs.pendPllcfg P w.2)
  | r => ((f.1.intervene f.2).1.put P r w.2, (f.1.intervene f.2).2)

/-- The whole effect of a write. -/
theorem State.busWrite_state (who : Master) (r : RegId) (v : Word) (s : State) :
    s.busWrite who r v =
      { s with
        clk := (ClockRegs.written s.params (s.clk, s.draws) (r, v)).1
        rtc := s.rtc.put r v
        hist := .write who r v :: s.hist
        draws := (ClockRegs.written s.params (s.clk, s.draws) (r, v)).2 } := by
  cases r <;> rfl

/-- The whole effect of a list of the block's writes that nothing disturbs. -/
theorem txWrites_calm {s : State} (h : s.Calm) (ws : List (RegId × Word)) :
    txWrites ws s = .ok () { s with
      clk := (ws.foldl (ClockRegs.written s.params) (s.clk, s.draws)).1
      rtc := ws.foldl (fun c w => c.put w.1 w.2) s.rtc
      hist := writeEvents ws ++ s.hist
      draws := (ws.foldl (ClockRegs.written s.params) (s.clk, s.draws)).2 } := by
  induction ws generalizing s with
  | nil => rfl
  | cons w ws ih =>
    obtain ⟨r, v⟩ := w
    have hb := s.busWrite_frame .block r v
    rw [txWrites_cons, txWrite_quiet h.quiet h.run h.hang, Run.andThen_ok, ih (hb.calm h), State.busWrite_state]
    simp only [List.foldl_cons, writeEvents, List.map_cons, List.reverse_cons, List.append_assoc, List.cons_append,
      List.nil_append]

/-- With nothing pending only `feed` changes when the pair is voided. -/
theorem ClockRegs.discard_of_nonePending {c : ClockRegs} (h1 : c.pllconPend = none) (h2 : c.pllcfgPend = none) :
    c.discard = { c with feed := .idle } := by
  obtain ⟨_, _, _, _, _, _, _, _⟩ := c
  cases h1
  cases h2
  rfl

theorem written_pllfeed (P : Params) (f : Fed) (v : Word) :
    ClockRegs.written P f (.pllfeed, v) = f.1.feedWrite f.2 v := rfl

theorem written_pllcon (P : Params) (f : Fed) (v : Word) :
    ClockRegs.written P f (.pllcon, v) = f.1.protectedWrite f.2 (ClockRegs.pendPllcon v) := rfl

theorem written_pllcfg (P : Params) (f : Fed) (v : Word) :
    ClockRegs.written P f (.pllcfg, v) = f.1.protectedWrite f.2 (ClockRegs.pendPllcfg P v) := rfl

section
variable (P : Params) (c : ClockRegs) (k : Nat)

/-- The pair begun with feed Idle or nothing pending commits, and draws nothing (R40, R41). -/
theorem written_feedPair {c : ClockRegs} (h : c.feed = .idle ∨ c.anyPend = false) :
    feedPair.foldl (ClockRegs.written P) (c, k) = (c.commit, k) := by
  have arm : ClockRegs.written P (c, k) (.pllfeed, 0x000000AA#32) = ({ c with feed := .armed }, k) :=
    (written_pllfeed P _ _).trans (ClockRegs.feedWrite_first rfl h)
  have complete : ClockRegs.written P ({ c with feed := .armed }, k) (.pllfeed, 0x00000055#32) = (c.commit, k) :=
    (written_pllfeed P _ _).trans (ClockRegs.feedWrite_second (c := { c with feed := .armed }) rfl rfl)
  rw [feedPair, List.foldl_cons, arm, List.foldl_cons, complete, List.foldl_nil]

theorem written_pllcon_fed (v : Word) :
    ((.pllcon, v) :: feedPair).foldl (ClockRegs.written P) (c.discard, k) =
      ({ c with pllconLive := v.extractLsb' 0 2 }.discard, k) := by
  have pend : ClockRegs.written P (c.discard, k) (.pllcon, v) = (c.discard.pendPllcon v, k) :=
    (written_pllcon P _ v).trans (ClockRegs.protectedWrite_idle (c := c.discard) rfl rfl)
  rw [List.foldl_cons, pend, written_feedPair P k (.inl rfl)]
  rfl

theorem written_pllcfg_fed (v : Word) :
    ((.pllcfg, v) :: feedPair).foldl (ClockRegs.written P) (c.discard, k) =
      ({ c with pllcfgLive := PllCfg.ofWord P v }.discard, k) := by
  have pend : ClockRegs.written P (c.discard, k) (.pllcfg, v) = (c.discard.pendPllcfg P v, k) :=
    (written_pllcfg P _ v).trans (ClockRegs.protectedWrite_idle (c := c.discard) rfl rfl)
  rw [List.foldl_cons, pend, written_feedPair P k (.inl rfl)]
  rfl

/-- With nothing pending and feed Idle a write of a register without a pending half stores at once. -/
theorem written_unprotected {r : RegId} (h1 : r ≠ .pllcon) (h2 : r ≠ .pllcfg) (h3 : r ≠ .pllfeed) (v : Word) :
    ClockRegs.written P (c.discard, k) (r, v) = ((c.put P r v).discard, k) := by
  have settled : c.discard.intervene k = (c.discard, k) := ClockRegs.intervene_idle rfl rfl
  cases r with
  | pllcon => exact absurd rfl h1
  | pllcfg => exact absurd rfl h2
  | pllfeed => exact absurd rfl h3
  | _ => simp only [ClockRegs.written, settled]; rfl

/-- t2 to t12 of CLKDIS lead to the disabled clock registers and draw nothing (R126). -/
theorem written_disable (w : Word) :
    (disableWrites w).foldl (ClockRegs.written P) (c.discard, k) = (c.disabled, k) := by
  have order : disableWrites w = ((.pllcon, if w.getLsbD 24 then 1#32 else 0#32) :: feedPair) ++
      (((.pllcon, 0#32) :: feedPair) ++ ((.clksrcsel, 0#32) :: (((.pllcfg, 0#32) :: feedPair) ++ [(.cclkcfg, 0#32)]))) :=
    rfl
  rw [order, List.foldl_append, written_pllcon_fed, List.foldl_append, written_pllcon_fed, List.foldl_cons,
    written_unprotected _ _ _ (by decide) (by decide) (by decide), List.foldl_append, written_pllcfg_fed, List.foldl_cons,
    written_unprotected _ _ _ (by decide) (by decide) (by decide), List.foldl_nil]
  simp [ClockRegs.put, ClockRegs.discard, ClockRegs.disabled, PllCfg.ofWord_eq, keepLow]

/-- t2 to t11 of RTCSET leave the clock registers alone. -/
theorem written_calendar (v : Word) (t : RtcTime) :
    (calendarWrites v t).foldl (ClockRegs.written P) (c.discard, k) = (c.discard, k) := by
  have step {r : RegId} (hr : r ∈ [RegId.rtcccr, .sec, .min, .hour, .dow, .dom, .month, .year, .doy]) (v : Word) :
      ClockRegs.written P (c.discard, k) (r, v) = (c.discard, k) := by
    simp only [List.mem_cons, List.not_mem_nil, or_false] at hr
    rcases hr with rfl | rfl | rfl | rfl | rfl | rfl | rfl | rfl | rfl <;>
      exact written_unprotected P c k (by decide) (by decide) (by decide) v
  simp [calendarWrites, step]

end

/-- t2 to t11 of RTCSET set the counters and start the calendar (R128). -/
theorem calendarWrites_put (c : CalendarRegs) (t : RtcTime) :
    (calendarWrites c.ccrWord t).foldl (fun c w => c.put w.1 w.2) c = { c with time := t, clken := true } := by
  rw [calendarWrites_eq, List.foldl_cons, List.foldl_append, counterWrites_put, List.foldl_cons, List.foldl_nil,
    CalendarRegs.put_rtcccr, CalendarRegs.put_rtcccr]
  rfl

/-- The disable sequence touches no calendar register. -/
theorem disableWrites_put (w : Word) (c : CalendarRegs) :
    (disableWrites w).foldl (fun c w => c.put w.1 w.2) c = c := rfl

/-! ### Sequences that nothing disturbs, with nothing pending -/

section
variable {s : State} (h : s.Calm) (hp : s.feedQuiet)
include h hp

theorem txRead_calm_feedQuiet {r : RegId} {v : Word} (hv : readView s.clk s.rtc r = some v) :
    txRead r s = .ok v { s with clk := s.clk.discard, hist := .read .block r v :: s.hist } := by
  rw [txRead_feedQuiet h.quiet h.run h.hang hp hv, ClockRegs.discard_of_nonePending hp.1 hp.2]

/-- The disable sequence: its twelve transactions and what they leave (R126). -/
theorem disableBody_calm :
    disableBody s = .ok () { s with
      clk := s.clk.disabled
      hist := disableEvents (pllstatWord s.clk.pllconLive s.clk.pllcfgLive) ++ s.hist } := by
  rw [disableBody, txRead_calm_feedQuiet h hp rfl, Run.andThen_ok,
    txWrites_calm (s := { s with clk := s.clk.discard, hist := _ :: s.hist }) ⟨h.ready, h.quiet⟩]
  simp only [written_disable, disableWrites_put, disableEvents, List.append_assoc]
  rfl

/-- The calendar write: its eleven transactions and what they leave (R128). -/
theorem calendarBody_calm :
    calendarBody s = .ok () { s with
      clk := s.clk.discard
      rtc := { s.rtc with time := s.ts, clken := true }
      hist := calendarEvents s.rtc.ccrWord s.ts ++ s.hist } := by
  rw [calendarBody, txRead_calm_feedQuiet h hp rfl, Run.andThen_ok,
    txWrites_calm (s := { s with clk := s.clk.discard, hist := _ :: s.hist }) ⟨h.ready, h.quiet⟩]
  simp only [written_calendar, calendarWrites_put, calendarEvents, List.append_assoc]
  rfl

/-- A round of the tear-free read (R171). -/
theorem readLoop_calm (c : InFlight) :
    readLoop c s = finishRead c { s with
      cs := s.rtc.time.words
      ts := s.rtc.time
      clk := s.clk.discard
      hist := fullReadEvents s.rtc.time.words ++ fullReadEvents s.rtc.time.words ++ s.hist } := by
  rw [readLoop, readRound_quiet h.quiet h.run h.hang hp, Run.andThen_ok, ClockRegs.discard_of_nonePending hp.1 hp.2]
  simp only [State.captured, RtcTime.decodeCT_words]

end

/-! ### The statements -/

/-- Settles O24. -/
theorem regrdReadsOneRegister : Obligations.RegrdReadsOneRegister := by
  intro r s hready hquiet hp
  have hs : s.Calm := ⟨hready, hquiet⟩
  have hexec : exec (.regrd r) s = ((txRead r s).andThen fun v t => .ok () ({ t with x0 := v }.setFlags [.done])).outcome :=
    whenRunning_of_running hs.run _
  refine ⟨fun v hv => ?_, fun hn => ⟨?_, ?_⟩⟩
  · rw [hexec, txRead_feedQuiet hquiet hs.run hs.hang hp hv]
    rfl
  · cases r <;> simp_all [readView]
  · have hnone : readView s.intervene.clk s.intervene.rtc r = none := by
      rw [State.intervene_feedQuiet hp, ← hn]
      cases r <;> rfl
    rw [hexec, txRead_quiet hquiet hs.run hs.hang, State.busRead, State.readValue_none hnone,
      State.intervene_feedQuiet hp]
    rfl

/-- Settles O26: with feed Idle, or nothing pending, the first magic value arms the pair and the second commits. -/
theorem feedCommitsWhatIsPending : Obligations.FeedCommitsWhatIsPending := by
  intro s hready hquiet h
  have hs : s.Calm := ⟨hready, hquiet⟩
  have hidle : s.clk.feed = .idle ∨ s.clk.anyPend = false := h.imp_right fun ⟨h1, h2⟩ => ClockRegs.anyPend_of_none h1 h2
  have hexec : exec .feed s = ((txWrites feedPair s).andThen fun _ t => .ok () (t.setFlags [.done])).outcome :=
    whenRunning_of_running hs.run _
  rw [hexec, txWrites_calm hs, written_feedPair _ _ hidle]
  rfl

/-- With nothing pending, the disabled clock registers written out (R127). -/
theorem ClockRegs.disabled_of_nonePending {c : ClockRegs} (h1 : c.pllconPend = none) (h2 : c.pllcfgPend = none) :
    c.disabled = { c with pllconLive := 0#2, pllcfgLive := ⟨0#16, 0#8⟩, feed := .idle, cclkcfg := 0#8,
                          clksrcsel := 0#2 } := by
  rw [ClockRegs.disabled, h1, h2]

/-- Settles O29. -/
theorem clkdisPerformsTheTwelveTransactions : Obligations.ClkdisPerformsTheTwelveTransactions := by
  intro s hready hquiet hp
  have hs : s.Calm := ⟨hready, hquiet⟩
  have hexec : exec .clkdis s = ((disableBody s).andThen fun _ t => .ok () (t.setFlags [.done])).outcome :=
    whenRunning_of_running hs.run _
  rw [hexec, disableBody_calm hs hp, disableEvents, disableWrites, pllstatWord_enable,
    ClockRegs.disabled_of_nonePending hp.1 hp.2]
  rfl

/-- Settles O32. -/
theorem rtcsetWritesTheCalendar : Obligations.RtcsetWritesTheCalendar := by
  intro s hready hquiet hp hvalid
  have hs : s.Calm := ⟨hready, hquiet⟩
  have hexec : exec .rtcset s = ((calendarBody s).andThen fun _ t => .ok () (t.setFlags [.done, .valid])).outcome := by
    change execRtcset s = _
    rw [execRtcset, whenRunning_of_running hs.run, if_pos hvalid]
  rw [hexec, calendarBody_calm hs hp, calendarEvents, calendarWrites_eq, ClockRegs.discard_of_nonePending hp.1 hp.2]
  rfl

/-- Settles O42. -/
theorem rtcreadOfAQuietCalendar : Obligations.RtcreadOfAQuietCalendar := by
  intro s hready hquiet hp
  have hs : s.Calm := ⟨hready, hquiet⟩
  have hexec : exec .rtcread s = (readLoop .rtcread s).outcome := whenRunning_of_running hs.run _
  rw [hexec, readLoop_calm hs hp, ← statusOf_done_valid, ClockRegs.discard_of_nonePending hp.1 hp.2]
  rfl

/-- Settles O49. -/
theorem rtcinitKeepsAValidTime : Obligations.RtcinitKeepsAValidTime := by
  intro s hready hquiet hp hvalid
  have hs : s.Calm := ⟨hready, hquiet⟩
  have hexec : exec .rtcinit s = (readLoop .rtcinit s).outcome := whenRunning_of_running hs.run _
  rw [hexec, readLoop_calm hs hp, finishRead, finishRtcinit, validateBody, if_pos hvalid,
    ClockRegs.discard_of_nonePending hp.1 hp.2]
  rfl

/-- Settles O50. -/
theorem rtcinitReplacesAnInvalidTime : Obligations.RtcinitReplacesAnInvalidTime := by
  intro s hready hquiet hp hvalid
  have hs : s.Calm := ⟨hready, hquiet⟩
  have hexec : exec .rtcinit s = (readLoop .rtcinit s).outcome := whenRunning_of_running hs.run _
  let t : State := { s with
    cs := s.rtc.time.words
    ts := epoch s.params
    clk := s.clk.discard
    hist := fullReadEvents s.rtc.time.words ++ fullReadEvents s.rtc.time.words ++ s.hist }
  have hbody : calendarBody t = _ := calendarBody_calm (s := t) ⟨hready, hquiet⟩ ⟨rfl, rfl⟩
  rw [hexec, readLoop_calm hs hp, finishRead, finishRtcinit, validateBody, if_neg (by simp [hvalid]), hbody,
    ClockRegs.discard_of_nonePending rfl rfl]
  simp only [t, ClockRegs.discard_of_nonePending hp.1 hp.2, Run.andThen_ok, Run.outcome_ok, calendarEvents,
    List.append_assoc]
  rfl

/-! ### FREQRB -/

/-- PLLE and PLLC are both set exactly at the value 3 (R35). -/
theorem pllOn_iff (con : BitVec 2) (c : PllCfg) :
    ((pllstatWord con c).getLsbD 24 && (pllstatWord con c).getLsbD 25) = decide (con = 3#2) := by
  rw [pllstatWord_enable, pllstatWord_connect]
  revert con
  decide

/-- The three assigned selector values (R46). -/
theorem srcHz_assigned (P : Params) {src : BitVec 2} (h : src ≠ 3#2) :
    srcHz P src = some (if src = 0#2 then P.fIntHz else if src = 1#2 then P.fMainHz else P.fRtcHz) := by
  have hsrc : src = 0#2 ∨ src = 1#2 ∨ src = 2#2 := by
    revert src
    decide
  obtain rfl | rfl | rfl := hsrc <;> rfl

/-- FREQRB that nothing disturbs, with nothing pending: its two or three reads, and the end (R157). -/
theorem exec_freqrb_calm {s : State} (h : s.Calm) (hp : s.feedQuiet) :
    let sel : Word := s.clk.clksrcsel.setWidth 32
    let stat := pllstatWord s.clk.pllconLive s.clk.pllcfgLive
    let cc : Word := s.clk.cclkcfg.setWidth 32
    let t : State := { s with
      clk := s.clk.discard
      hist := .read .block .pllstat stat :: .read .block .clksrcsel sel :: s.hist }
    exec .freqrb s = .next
      (if s.clk.pllconLive = 3#2 then
        State.readbackDone sel stat (some cc) { t with hist := .read .block .cclkcfg cc :: t.hist }
      else t.readbackDone sel stat none) := by
  intro sel stat cc t
  have e1 : txRead .clksrcsel s = _ := txRead_calm_feedQuiet h hp rfl
  have e2 : txRead .pllstat { s with clk := s.clk.discard, hist := .read .block .clksrcsel sel :: s.hist } = .ok stat t :=
    txRead_calm_feedQuiet (s := { s with clk := s.clk.discard, hist := .read .block .clksrcsel sel :: s.hist })
      ⟨h.ready, h.quiet⟩ ⟨rfl, rfl⟩ rfl
  have e3 : txRead .cclkcfg t = .ok cc { t with hist := .read .block .cclkcfg cc :: t.hist } :=
    txRead_calm_feedQuiet (s := t) ⟨h.ready, h.quiet⟩ ⟨rfl, rfl⟩ rfl
  change execFreqrb s = _
  rw [execFreqrb, whenRunning_of_running h.run, e1, Run.andThen_ok, e2, Run.andThen_ok, pllOn_iff, e3]
  by_cases hon : s.clk.pllconLive = 3#2
  · simp only [hon, decide_true, if_true]
    rfl
  · simp only [hon, decide_false, if_false]
    rfl

theorem statusOf_done : statusOf [.done] = 0x100#32 := rfl

theorem statusOf_done_rsvsrc : statusOf [.done, .rsvsrc] = 0x300#32 := rfl

/-- Settles O40. -/
theorem freqrbReconstructsTheFrequency : Obligations.FreqrbReconstructsTheFrequency := by
  rintro s hready hquiet hp hinv ⟨hwidths, -⟩ c pllOn hz t
  have hsel : (s.clk.clksrcsel.setWidth 32 : Word).extractLsb' 0 2 = s.clk.clksrcsel := by
    rw [extractLsb'_zero_eq_ofNat, BitVec.toNat_setWidth_of_le (by decide), BitVec.ofNat_toNat, BitVec.setWidth_eq]
  have hdiscard : s.clk.discard = { c with feed := .idle } := ClockRegs.discard_of_nonePending hp.1 hp.2
  have hlive := readbackHz_live hinv hwidths
  rw [exec_freqrb_calm ⟨hready, hquiet⟩ hp, hdiscard]
  by_cases h3 : c.clksrcsel = 3#2
  · have hnone : srcHz s.params ((s.clk.clksrcsel.setWidth 32 : Word).extractLsb' 0 2) = none := by
      rw [hsel, show s.clk.clksrcsel = 3#2 from h3]
      rfl
    simp only [if_pos h3, State.readbackDone, hnone]
    by_cases hon : s.clk.pllconLive = 3#2
    · simp only [t, pllOn, c, hon, decide_true, if_true, State.setFlags, statusOf_done_rsvsrc, List.cons_append,
        List.nil_append]
    · simp only [t, pllOn, c, hon, decide_false, if_false, Bool.false_eq_true, State.setFlags, statusOf_done_rsvsrc,
        List.cons_append, List.nil_append]
  · have hsome := (congrArg (srcHz s.params) hsel).trans (srcHz_assigned s.params h3)
    simp only [if_neg h3, State.readbackDone, hsome]
    by_cases hon : s.clk.pllconLive = 3#2
    · simp only [t, hz, pllOn, c, hon, hlive, decide_true, if_true, State.setFlags, statusOf_done, List.cons_append,
        List.nil_append, saturate, fcpu, fcco]
    · simp only [t, hz, pllOn, c, hon, decide_false, if_false, Bool.false_eq_true, State.setFlags, statusOf_done,
        List.cons_append, List.nil_append, saturate, readbackHz]

end Sys2Proof.Machine
end

section
/-! PROOF. A command disturbed at one point: a fault before a transaction of CLKDIS, a foreign transaction inside FEED's pair;
and the accesses of the host port (R101, R122, R217, R251). -/

namespace Sys2Proof.Machine

open Sys2Proof

/-! ### A fault in the disable sequence -/

/-- A slot without steps is passed. -/
theorem pass_of_empty {s : State} (hrun : s.run = .running) (hhang : s.tickHang = none) (h : s.nextSlot = []) :
    pass s = .ok () s.dropSlot := by
  simp [pass, h, hrun, hhang]

/-- A slot that holds a fault cuts the command (R217). -/
theorem pass_of_fault {s : State} {f : Option Frame} (hrun : s.run = .running) (h : s.nextSlot = [.fault f]) :
    pass s = .cut { s.dropSlot with run := .faulted, frame := f, inflight := none, tickHang := none } := by
  have hstep : s.dropSlot.agentSteps [.fault f] =
      { s.dropSlot with run := .faulted, frame := f, inflight := none, tickHang := none } :=
    if_pos (s.dropSlot_run.trans hrun)
  simp [pass, h, hstep]

/-- A fault cut the command after `k` transactions that changed nothing but the clock registers. -/
structure FaultedAfter (f : Option Frame) (k : Nat) (s t : State) : Prop where
  eq : t = { s with
    run := .faulted, frame := f, inflight := none, tickHang := none, clk := t.clk, hist := t.hist, env := t.env,
    draws := t.draws }
  hist : t.hist.length = s.hist.length + k

/-- The slots up to a fault. -/
def faultSlots (k : Nat) (f : Option Frame) (rest : List Slot) : List Slot := List.replicate k [] ++ [.fault f] :: rest

section
variable {s : State} {f : Option Frame} {k : Nat} {rest : List Slot}

/-- What a slot without steps leaves. -/
theorem dropSlot_faultSlots (h : s.env = faultSlots (k + 1) f rest) :
    s.nextSlot = [] ∧ s.dropSlot = { s with env := faultSlots k f rest } := by
  rw [faultSlots, List.replicate_succ, List.cons_append] at h
  exact ⟨by rw [State.nextSlot, h], by rw [State.dropSlot, h]; rfl⟩

/-- The fault stands in the next slot. -/
theorem pass_faulted (hrun : s.run = .running) (h : s.env = faultSlots 0 f rest) :
    ∃ t, pass s = .cut t ∧ FaultedAfter f 0 s t := by
  have hnext : s.nextSlot = [.fault f] := by rw [State.nextSlot, h]; rfl
  refine ⟨_, pass_of_fault hrun hnext, ⟨?_, ?_⟩⟩
  · rw [s.dropSlot_slots.eq, s.dropSlot_clk, s.dropSlot_rtc, s.dropSlot_hist, s.dropSlot_draws]
  · rw [s.dropSlot_hist, Nat.add_zero]

/-- One transaction more before the fault. -/
theorem FaultedAfter.succ {e : List Slot} {t u : State} (hb : SameButBus { s with env := e } t) (hrtc : t.rtc = s.rtc)
    (hh : t.hist.length = s.hist.length + 1) (h : FaultedAfter f k t u) : FaultedAfter f (k + 1) s u := by
  refine ⟨?_, by rw [h.hist, hh, Nat.add_assoc, Nat.add_comm 1 k]⟩
  conv_lhs => rw [h.eq, hb.eq, hrtc]

/-- Writes of the clock registers that a fault cuts. -/
theorem txWrites_faulted (hrun : s.run = .running) (hhang : s.tickHang = none) (h : s.env = faultSlots k f rest)
    {ws : List (RegId × Word)} (hk : k < ws.length) (hclk : ∀ w ∈ ws, ∀ c : CalendarRegs, c.put w.1 w.2 = c) :
    ∃ t, txWrites ws s = .cut t ∧ FaultedAfter f k s t := by
  induction ws generalizing s k with
  | nil => exact absurd hk (Nat.not_lt_zero k)
  | cons w ws ih =>
    cases k with
    | zero =>
      obtain ⟨t, hp, ht⟩ := pass_faulted hrun h
      exact ⟨t, by rw [txWrites, txWrite, hp]; rfl, ht⟩
    | succ k =>
      obtain ⟨hnext, hdrop⟩ := dropSlot_faultSlots h
      let u : State := State.busWrite .block w.1 w.2 { s with env := faultSlots k f rest }
      have hb : SameButBus { s with env := faultSlots k f rest } u := State.busWrite_frame ..
      have henv : u.env = faultSlots k f rest := by rw [hb.eq]
      have hrtc : u.rtc = s.rtc := (State.busWrite_rtc ..).trans (hclk w List.mem_cons_self _)
      have hh : u.hist.length = s.hist.length + 1 := congrArg List.length (State.busWrite_hist ..)
      obtain ⟨t, ht, hf⟩ := ih (hb.run.trans hrun) (hb.tickHang.trans hhang) henv (Nat.lt_of_succ_lt_succ hk)
        fun w' hw' => hclk w' (List.mem_cons_of_mem _ hw')
      refine ⟨t, ?_, hf.succ hb hrtc hh⟩
      rw [txWrites, txWrite, pass_of_empty hrun hhang hnext, hdrop]
      exact ht

/-- The disable sequence that a fault cuts. -/
theorem disableBody_faulted (hrun : s.run = .running) (hhang : s.tickHang = none) (h : s.env = faultSlots k f rest)
    (hk : k ≤ 11) : ∃ t, disableBody s = .cut t ∧ FaultedAfter f k s t := by
  cases k with
  | zero =>
    obtain ⟨t, hp, ht⟩ := pass_faulted hrun h
    exact ⟨t, by rw [disableBody, txRead, hp]; rfl, ht⟩
  | succ k =>
    obtain ⟨hnext, hdrop⟩ := dropSlot_faultSlots h
    let p := State.busRead .block .pllstat { s with env := faultSlots k f rest }
    have hb : SameButBus { s with env := faultSlots k f rest } p.2 := State.busRead_frame ..
    have henv : p.2.env = faultSlots k f rest := by rw [hb.eq]
    have hh : p.2.hist.length = s.hist.length + 1 := congrArg List.length (State.busRead_hist ..)
    obtain ⟨t, ht, hf⟩ := txWrites_faulted (ws := disableWrites p.1) (hb.run.trans hrun) (hb.tickHang.trans hhang) henv hk
      (by simp [disableWrites, feedPair, CalendarRegs.put])
    refine ⟨t, ?_, hf.succ hb (State.busRead_rtc ..) hh⟩
    rw [disableBody, txRead, pass_of_empty hrun hhang hnext, hdrop]
    exact ht

end

/-- Settles O9: the fault cuts the sequence after `k` transactions, none of which is on the calendar. -/
theorem faultAbandonsTheDisableSequence : Obligations.FaultAbandonsTheDisableSequence := by
  rintro s f k rest ⟨hrun, -, hhang⟩ - hk henv
  obtain ⟨t, hbody, ht⟩ := disableBody_faulted hrun hhang henv hk
  have hexec : exec .clkdis s = .next t := by
    change execClkdis s = _
    rw [execClkdis, whenRunning_of_running hrun, hbody]
    rfl
  have hhist := ht.hist
  rw [ht.eq] at hexec
  exact ⟨_, hexec, rfl, rfl, rfl, hhist, rfl, rfl, rfl, rfl, rfl, rfl, rfl, rfl, rfl, rfl⟩

/-! ### A foreign transaction inside the pair -/

/-- A foreign transaction in an armed pair voids it and leaves the live halves and the mark (R43). -/
theorem State.foreignOp_armed {s : State} (hf : s.clk.feed = .armed) {op : BusOp} (hop : ∀ v, op ≠ .write .pllfeed v) :
    (s.foreignOp op).clk.feed = .idle ∧ (s.foreignOp op).clk.pllconLive = s.clk.pllconLive ∧
      (s.foreignOp op).clk.pllcfgLive = s.clk.pllcfgLive ∧ (s.foreignOp op).clk.refused = s.clk.refused := by
  cases op with
  | read r =>
    have hclk : (s.foreignOp (.read r)).clk = s.clk.discard := by
      rw [State.foreignOp, State.busRead_clk, ClockRegs.intervene_armed hf]
    rw [hclk]
    exact ⟨rfl, rfl, rfl, rfl⟩
  | write r v =>
    have hr : r ≠ .pllfeed := by
      rintro rfl
      exact hop v rfl
    rw [State.foreignOp, State.busWrite_armed_clk hf .foreign hr v]
    exact ⟨rfl, rfl, rfl, rfl⟩

/-- A slot of one foreign transaction is passed. -/
theorem pass_of_foreign {s : State} {op : BusOp} (hrun : s.run = .running) (hhang : s.tickHang = none)
    (h : s.nextSlot = [.foreign op]) : pass s = .ok () (s.dropSlot.foreignOp op) := by
  have hgo : (decide (s.dropSlot.run = .running) && s.dropSlot.tickHang.isNone) = true := by simp [hrun, hhang]
  have hstep : s.dropSlot.agentSteps [.foreign op] = s.dropSlot.foreignOp op := if_pos hgo
  have hf := s.dropSlot.foreignOp_frame op
  simp [pass, h, hstep, hf.run, hf.tickHang, hrun, hhang, EnvEvent.isReset]

/-- Settles O27: the foreign transaction voids the armed pair, and the second magic value finds feed Idle. -/
theorem splitPairLosesTheWrite : Obligations.SplitPairLosesTheWrite := by
  rintro s op ⟨hrun, -, hhang⟩ hfeed hslots hop
  simp only [State.slotsAhead, List.cons.injEq, and_true] at hslots
  obtain ⟨hnext, hnext'⟩ := hslots
  let t : State := s.dropSlot.busWrite .block .pllfeed 0x000000AA#32
  have ht : t = { s.dropSlot with clk := { s.clk with feed := .armed }, hist := t.hist } := by
    have hidle : s.dropSlot.clk.feed = .idle := by rw [s.dropSlot_clk, hfeed]
    have hfirst : t = { s.dropSlot with clk := { s.dropSlot.clk with feed := .armed }, hist := t.hist } :=
      (firstMagicValueArmsThePair s.dropSlot .block 0x000000AA#32 rfl).1 (.inl hidle)
    rwa [s.dropSlot_clk] at hfirst
  have hclk : t.clk = { s.clk with feed := .armed } := by rw [ht]
  have hrun' : t.run = .running := by rw [ht]; exact s.dropSlot_run.trans hrun
  have hhang' : t.tickHang = none := by rw [ht]; exact s.dropSlot_tickHang.trans hhang
  have hnext'' : t.nextSlot = [.foreign op] := by rw [ht]; exact hnext'
  let u : State := t.dropSlot.foreignOp op
  obtain ⟨hu, hcon, hcfg, href⟩ := State.foreignOp_armed (s := t.dropSlot) (by rw [t.dropSlot_clk, hclk]) hop
  rw [t.dropSlot_clk, hclk] at hcon hcfg href
  have hsecond : u.busWrite .block .pllfeed 0x00000055#32 =
      { u with clk := u.clk.discard, hist := .write .block .pllfeed 0x00000055#32 :: u.hist } :=
    wrongFeedWriteDiscards u .block _ (.inl ⟨rfl, hu⟩)
  refine ⟨(u.busWrite .block .pllfeed 0x00000055#32).setFlags [.done], ?_, rfl, ?_⟩
  · change execFeed s = _
    rw [execFeed, whenRunning_of_running hrun, feedPair, txWrites, txWrite, pass_of_empty hrun hhang hnext]
    change (((txWrites [(.pllfeed, 0x00000055#32)] t).andThen fun _ t => Run.ok () (t.setFlags [.done])).outcome) = _
    rw [txWrites, txWrite, pass_of_foreign hrun' hhang' hnext'']
    rfl
  · rw [hsecond]
    exact ⟨hcon, hcfg, rfl, rfl, href⟩

/-! ### The host port -/

theorem keepLow_toNat {n : Nat} (k : Nat) (v : BitVec n) : (keepLow k v).toNat = v.toNat % 2 ^ k := by
  rw [keepLow, toNat_ofNat_of_lt ((Nat.mod_le _ _).trans_lt v.isLt)]

/-- A write of PR keeps the low bits of its three fields (R22). -/
theorem PllTriple.ofWord_toNat (P : Params) (v : Word) :
    (PllTriple.ofWord P v).m.toNat = v.toNat % 2 ^ 16 % 2 ^ P.mBits ∧
    (PllTriple.ofWord P v).n.toNat = v.toNat / 2 ^ 16 % 2 ^ 8 % 2 ^ P.nBits ∧
    (PllTriple.ofWord P v).d.toNat = v.toNat / 2 ^ 24 % 2 ^ P.dBits := by
  have htop : v.toNat / 2 ^ 24 % 2 ^ 8 = v.toNat / 2 ^ 24 := Nat.mod_eq_of_lt (by have := v.isLt; omega)
  simp only [PllTriple.ofWord, PllTriple.fit, keepLow_toNat, toNat_extractLsb'_eq, Nat.pow_zero, Nat.div_one, htop,
    and_self]

/-- A write of an offset that R101 does not list as writable changes nothing. -/
theorem portWrite_of_not_mem {off : Word} (h : off ∉ [0x00#32, 0x08#32, 0x0C#32, 0x10#32, 0x14#32, 0x18#32]) (v : Word)
    (s : State) : portWrite off v s = .next s := by
  unfold portWrite
  split
  case h_7 => rfl
  all_goals exact absurd h (by decide)

/-- An offset that R101 does not list has no word. -/
theorem portView_of_not_mem {off : Word} (h : off ∉ [0x00#32, 0x04#32, 0x08#32, 0x0C#32, 0x10#32, 0x14#32, 0x18#32, 0x1C#32,
    0x20#32, 0x24#32, 0x28#32, 0x2C#32, 0x30#32]) (s : State) : portView off s = none := by
  unfold portView
  split
  case h_14 => rfl
  all_goals exact absurd h (by decide)

/-- The table of the readable offsets (R101). -/
theorem portView_of_mem {s : State} {off v : Word}
    (h : (off, v) ∈ [(0x00#32, 0#32), (0x04#32, s.status), (0x08#32, s.x0), (0x0C#32, s.x1), (0x10#32, s.x2),
      (0x14#32, s.x3), (0x18#32, s.pr.d ++ s.pr.n ++ s.pr.m), (0x1C#32, s.ts.ct0), (0x20#32, s.ts.ct1),
      (0x24#32, s.ts.ct2), (0x28#32, s.cs.c0), (0x2C#32, s.cs.c1), (0x30#32, s.cs.c2)]) : portView off s = some v := by
  simp only [List.mem_cons, Prod.mk.injEq, List.not_mem_nil, or_false] at h
  rcases h with ⟨rfl, rfl⟩ | ⟨rfl, rfl⟩ | ⟨rfl, rfl⟩ | ⟨rfl, rfl⟩ | ⟨rfl, rfl⟩ | ⟨rfl, rfl⟩ | ⟨rfl, rfl⟩ | ⟨rfl, rfl⟩ |
    ⟨rfl, rfl⟩ | ⟨rfl, rfl⟩ | ⟨rfl, rfl⟩ | ⟨rfl, rfl⟩ | ⟨rfl, rfl⟩ <;> rfl

/-- Settles O58: with an empty slot the step is the host's access. -/
theorem hostPortAccess : Obligations.HostPortAccess := by
  intro s rest off v hready hquiet
  have hslot : s.afterSlot = s := State.afterSlot_quiet hquiet
  have access {a : HostAct} (ha : s.host = a :: rest) : step s = hostAccess a { s with host := rest } := by
    rw [step_of_rest hready.2.1, betweenCommands_access (by rw [hslot]; exact hready.2.2) (by rw [hslot]; exact ha), hslot]
  refine ⟨fun h => ?_, access, access, access, access, fun h hoff => ?_, fun h hoff => ?_, fun h hoff => ?_⟩
  · obtain ⟨hm, hn, hd⟩ := PllTriple.ofWord_toNat s.params v
    exact ⟨_, access h, rfl, hm, hn, hd⟩
  · rw [access h]
    exact portWrite_of_not_mem hoff v _
  · rw [access h, hostAccess, portRead, portView_of_mem (s := { s with host := rest }) hoff]
  · rw [access h, hostAccess, portRead, portView_of_not_mem hoff]

end Sys2Proof.Machine
end

section
/-! PROOF. The tick handler and the watchdog's transactions on OTHER (R214, R258). -/

namespace Sys2Proof.Machine

open Sys2Proof

/-- Of the clock registers only the feed machinery has moved, and feed is Idle: what transactions on OTHER leave (R31, R43,
R44). -/
def ClockRegs.FeedMoved (c d : ClockRegs) : Prop :=
  d = { c with pllconPend := d.pllconPend, pllcfgPend := d.pllcfgPend, feed := .idle, refused := d.refused }

theorem ClockRegs.FeedMoved.trans {c d e : ClockRegs} (h : c.FeedMoved d) (h' : d.FeedMoved e) : c.FeedMoved e := by
  unfold ClockRegs.FeedMoved at *
  conv_lhs => rw [h', h]

theorem ClockRegs.feedMoved_intervene (c : ClockRegs) (k : Nat) : c.FeedMoved (c.intervene k).1 := c.intervene_frame k

section
variable {s : State} {wd : WatchdogFeed}

/-- A transaction on OTHER is an intervening one and nothing else (R31). -/
theorem State.foreignOp_other {op : BusOp} (hop : op ∈ wd.ops) (s : State) :
    (s.foreignOp op).clk = (s.clk.intervene s.draws).1 ∧ (s.foreignOp op).rtc = s.rtc := by
  obtain rfl | ⟨v, rfl⟩ := WatchdogFeed.mem_ops hop
  · exact ⟨s.busRead_clk _ _, s.busRead_rtc _ _⟩
  · exact ⟨rfl, rfl⟩

/-- The watchdog makes one transaction at least, so what each of them leaves whatever came before, it leaves (R214). -/
theorem State.watchdog_ends {K : State → Prop} (hfirst : ∀ op ∈ wd.ops, K (s.foreignOp op))
    (hnext : ∀ op ∈ wd.ops, ∀ t : State, K t → K (t.foreignOp op)) : K (s.watchdog wd) := by
  have hrest : s.watchdog wd = (wd.rest.map watchdogOp).foldl (fun t op => t.foreignOp op)
      (s.foreignOp (watchdogOp wd.first)) := rfl
  rw [hrest]
  exact List.foldlRecOn _ _ (hfirst _ List.mem_cons_self) fun t ht op hop =>
    hnext op (List.mem_cons_of_mem _ hop) t ht

/-- The watchdog moves nothing but the feed machinery, the history and the draw index. -/
theorem State.watchdog_state (wd : WatchdogFeed) (s : State) :
    s.clk.FeedMoved (s.watchdog wd).clk ∧ (s.watchdog wd).rtc = s.rtc := by
  refine State.watchdog_ends (K := fun t => s.clk.FeedMoved t.clk ∧ t.rtc = s.rtc) (fun op hop => ?_)
    fun op hop t ⟨hclk, hrtc⟩ => ?_
  · obtain ⟨h1, h2⟩ := s.foreignOp_other hop
    exact ⟨h1 ▸ s.clk.feedMoved_intervene _, h2⟩
  · obtain ⟨h1, h2⟩ := t.foreignOp_other hop
    exact ⟨hclk.trans (h1 ▸ t.clk.feedMoved_intervene _), h2.trans hrtc⟩

/-- With an open pair or nothing pending, nothing is pending after the watchdog's transactions (R43). -/
theorem State.watchdog_settled (h : s.clk.feed = .armed ∨ s.feedQuiet) (wd : WatchdogFeed) :
    (s.watchdog wd).clk = s.clk.discard := by
  refine State.watchdog_ends (K := fun t => t.clk = s.clk.discard) (fun op hop => ?_) fun op hop t ht => ?_
  · rw [(s.foreignOp_other hop).1, ClockRegs.intervene_settled h]
  · rw [(t.foreignOp_other hop).1, ht, ClockRegs.intervene_settled (.inr ⟨rfl, rfl⟩)]
    rfl

/-- The history shows exactly the watchdog's transactions. -/
theorem State.watchdog_hist (wd : WatchdogFeed) (s : State) :
    ∃ es, (s.watchdog wd).hist = es ++ s.hist ∧ es.map BusEvent.request = wd.requests := by
  unfold State.watchdog WatchdogFeed.requests
  induction wd.ops generalizing s with
  | nil => exact ⟨[], rfl, rfl⟩
  | cons op ops ih =>
    obtain ⟨e, he, hreq⟩ := s.foreignOp_hist op
    obtain ⟨es, hes, hreqs⟩ := ih (s.foreignOp op)
    refine ⟨es ++ [e], ?_, ?_⟩
    · rw [List.foldl_cons, hes, he, List.append_assoc]
      rfl
    · rw [List.map_append, hreqs, List.map_cons (l := ops), List.reverse_cons, ← hreq]
      rfl

/-- Each of the watchdog's requests is one on OTHER, and there is one at least (R214). -/
theorem WatchdogFeed.requests_other (wd : WatchdogFeed) :
    wd.requests ≠ [] ∧
      ∀ q ∈ wd.requests, q = some (.foreign, .read .other) ∨ ∃ v, q = some (.foreign, .write .other v) := by
  refine ⟨by simp [WatchdogFeed.requests, WatchdogFeed.ops], fun q hq => ?_⟩
  obtain ⟨op, hop, rfl⟩ := List.mem_map.1 (List.mem_reverse.1 hq)
  obtain rfl | ⟨v, rfl⟩ := WatchdogFeed.mem_ops hop
  · exact .inl rfl
  · exact .inr ⟨v, rfl⟩

/-- The handler is dispatched when the tick is set, the interrupt enabled, and the processor free (R214). -/
theorem State.agentStep_tick (hready : s.ready) (htick : s.rtc.tickif = true) (hen : s.params.tickEnabled = true) :
    s.agentStep (.tick true wd) = (s.busWrite .foreign .rtcilr 1#32).watchdog wd ∧
      s.agentStep (.tick false wd) = { s.watchdog wd with tickHang := some wd } := by
  obtain ⟨hrun, -, hhang⟩ := hready
  have hgo : (decide (s.run = .running) && s.tickHang.isNone) = true := by simp [hrun, hhang]
  have hdue : (s.rtc.tickif && s.params.tickEnabled) = true := by simp [htick, hen]
  exact ⟨(if_pos hgo).trans (if_pos hdue), (if_pos hgo).trans (if_pos hdue)⟩

/-- A write of 1 to RTCILR clears `TICKIF` and is otherwise an intervening transaction (R51). -/
theorem State.busWrite_rtcilr (s : State) :
    s.busWrite .foreign .rtcilr 1#32 =
      { s.intervene with rtc := { s.rtc with tickif := false }, hist := .write .foreign .rtcilr 1#32 :: s.hist } := by
  have hclear : s.rtc.put .rtcilr 1#32 = { s.rtc with tickif := false } :=
    congrArg (fun b => { s.rtc with tickif := b }) (Bool.and_false _)
  rw [State.busWrite_unprotected (by decide) (by decide) (by decide), hclear]
  rfl

end

/-- Settles O57: the handler is the watchdog's transactions, after the clearing write or before the hang. -/
theorem tickHandlerMustClearTheFlag : Obligations.TickHandlerMustClearTheFlag := by
  intro s wd hready htick hen
  obtain ⟨hack, hnack⟩ := State.agentStep_tick (wd := wd) hready htick hen
  rw [hack, hnack]
  refine ⟨wd.requests_other, ⟨?_, fun h => ?_, ?_⟩, ⟨?_, s.watchdog_hist wd, fun hquiet => ?_⟩⟩
  · obtain ⟨hclk, hrtc⟩ := State.watchdog_state wd (s.busWrite .foreign .rtcilr 1#32)
    have hfirst : s.clk.FeedMoved (s.busWrite .foreign .rtcilr 1#32).clk := s.clk.feedMoved_intervene _
    have hframe := (s.busWrite_frame .foreign .rtcilr 1#32).trans (State.watchdog_frame wd _)
    rw [← hfirst.trans hclk]
    conv_lhs => rw [hframe.eq]
    rw [hrtc, s.busWrite_rtcilr]
  · have hfirst : (s.busWrite .foreign .rtcilr 1#32).clk = s.clk.discard := by
      rw [s.busWrite_rtcilr]
      exact congrArg Prod.fst (ClockRegs.intervene_settled h s.draws)
    have hquiet : (s.busWrite .foreign .rtcilr 1#32).feedQuiet := by simp [State.feedQuiet, hfirst, ClockRegs.discard]
    simp only [State.watchdog_settled (.inr hquiet) wd, hfirst]
    exact ⟨rfl, rfl, rfl⟩
  · obtain ⟨es, hes, hreq⟩ := State.watchdog_hist wd (s.busWrite .foreign .rtcilr 1#32)
    exact ⟨es, by rw [hes, State.busWrite_hist], hreq⟩
  · obtain ⟨hclk, hrtc⟩ := s.watchdog_state wd
    change { s.watchdog wd with tickHang := some wd } = { s with
      tickHang := some wd
      clk := { s.clk with
        pllconPend := (s.watchdog wd).clk.pllconPend, pllcfgPend := (s.watchdog wd).clk.pllcfgPend, feed := .idle,
        refused := (s.watchdog wd).clk.refused }
      hist := (s.watchdog wd).hist, draws := (s.watchdog wd).draws }
    rw [← hclk]
    conv_lhs => rw [(s.watchdog_frame wd).eq, hrtc]
  · let t : State := { s.watchdog wd with tickHang := some wd }
    have hframe := s.watchdog_frame wd
    have hrest : t.inflight = none := by
      change (s.watchdog wd).inflight = none
      rw [hframe.eq]
      exact hready.2.1
    have hslot : t.afterSlot = t := State.afterSlot_quiet (hframe.quiet hquiet)
    have hidle : t.clk.feed = .idle := by
      change (s.watchdog wd).clk.feed = .idle
      rw [(s.watchdog_state wd).1]
    obtain ⟨hclk, hrtc⟩ := t.watchdog_state wd
    refine ⟨t.watchdog wd, ?_, ?_, t.watchdog_hist wd⟩
    · have hrun : t.run = .running := hframe.run.trans hready.1
      rw [step_of_rest hrest, betweenCommands_hang (wd := wd) (by rw [hslot]), hslot, State.tickAgain, if_pos hrun]
    · rw [ClockRegs.FeedMoved, ← hidle] at hclk
      rw [← hclk]
      conv_lhs => rw [(t.watchdog_frame wd).eq, hrtc]

end Sys2Proof.Machine
end

section
/-! PROOF. A round of the tear-free read whatever the other agents do short of a reset (R171, R172). -/

namespace Sys2Proof.Machine

open Sys2Proof

/-! ### The block's part of the history -/

theorem BusEvent.byBlock_of_request {e : BusEvent} {op : BusOp} (h : e.request = some (.foreign, op)) :
    e.byBlock = false := by
  cases e <;> simp_all [BusEvent.request, BusEvent.byBlock]

theorem State.watchdog_byBlock (wd : WatchdogFeed) (s : State) :
    (s.watchdog wd).hist.filter BusEvent.byBlock = s.hist.filter BusEvent.byBlock := by
  refine State.watchdog_of_foreignOp
    (K := fun t => t.hist.filter BusEvent.byBlock = s.hist.filter BusEvent.byBlock) (fun op _ t ht => ?_) rfl
  obtain ⟨e, he, hreq⟩ := t.foreignOp_hist op
  rw [he, List.filter_cons_of_neg (by simp [BusEvent.byBlock_of_request hreq]), ht]

theorem SameButCalendar.hist {s t : State} (h : SameButCalendar s t) : t.hist = s.hist := by rw [h.eq]

/-- The other agents add nothing to the block's part of the history. -/
theorem State.agentStep_byBlock (e : EnvEvent) (s : State) :
    (s.agentStep e).hist.filter BusEvent.byBlock = s.hist.filter BusEvent.byBlock := by
  cases e with
  | rtcStep t tick => rw [(State.calendar_agentStep rfl s).hist]
  | rtcSecond => rw [(State.calendar_agentStep rfl s).hist]
  | foreign op =>
    simp only [State.agentStep]
    split
    · obtain ⟨e, he, hreq⟩ := s.foreignOp_hist op
      rw [he, List.filter_cons_of_neg (by simp [BusEvent.byBlock_of_request hreq])]
    · rfl
  | tick ack wd =>
    simp only [State.agentStep]
    split
    · obtain ⟨-, h⟩ | ⟨-, -, -, h⟩ | ⟨-, -, -, h⟩ := s.tickHandler_cases ack wd <;> rw [h]
      · rw [State.watchdog_byBlock, State.busWrite_hist]
        rfl
      · exact s.watchdog_byBlock wd
    · rfl
  | fault f =>
    obtain ⟨-, h⟩ | ⟨-, h⟩ := s.takeFault_cases f <;> rw [State.agentStep, h]
  | halt =>
    obtain ⟨-, h⟩ | ⟨-, h⟩ := s.halt_cases <;> rw [State.agentStep, h]
  | reset u => rfl

/-! ### A read round among the other agents' steps -/

/-- The command begun at `s₀` has made the block's transactions `es`, and no reset is in the next `k` slots. -/
structure ReadOn (s₀ : State) (k : Nat) (es : List BusEvent) (s : State) : Prop where
  params : s.params = s₀.params
  cs : s.cs = s₀.cs
  ts : s.ts = s₀.ts
  status : s.status = s₀.status
  inflight : s.inflight = none
  hist : s.hist.filter BusEvent.byBlock = es ++ s₀.hist.filter BusEvent.byBlock
  slots : ∀ sl ∈ s.slotsAhead k, ∀ e ∈ sl, EnvEvent.isReset e = false

/-- The command begun at `s₀` was abandoned where it stood (R217, R214). -/
structure Abandoned (s₀ s : State) : Prop where
  cs : s.cs = s₀.cs
  ts : s.ts = s₀.ts
  status : s.status = s₀.status
  inflight : s.inflight = none
  stopped : s.run ≠ .running ∨ s.tickHang ≠ none

section
variable {s₀ s : State} {k : Nat} {es : List BusEvent}

theorem State.afterSlot_schedule (s : State) : s.afterSlot.env = s.dropSlot.env ∧ s.afterSlot.envLoop = s.dropSlot.envLoop :=
  have h := State.agentSteps_keeps s.nextSlot s.dropSlot
  ⟨h.2.2.1, h.2.2.2.1⟩

/-- The slots after the next one are those that come once it has passed. -/
theorem State.slotsAhead_succ (k : Nat) (s : State) : s.slotsAhead (k + 1) = s.nextSlot :: s.afterSlot.slotsAhead k := by
  rw [State.slotsAhead, State.slotsAhead_congr s.afterSlot_schedule.1 s.afterSlot_schedule.2]

/-- A slot without a reset leaves the command's own registers alone. -/
theorem ReadOn.afterSlot (h : ReadOn s₀ (k + 1) es s) : ReadOn s₀ k es s.afterSlot := by
  have hslots := h.slots
  rw [State.slotsAhead_succ, List.forall_mem_cons] at hslots
  have hf : SameButAgents s.dropSlot s.afterSlot := State.agentSteps_frame hslots.1 s.dropSlot
  refine ⟨?_, ?_, ?_, ?_, ?_, ?_, hslots.2⟩
  · rw [hf.eq]
    exact s.dropSlot_params.trans h.params
  · rw [hf.eq]
    exact s.dropSlot_cs.trans h.cs
  · rw [hf.eq]
    exact s.dropSlot_ts.trans h.ts
  · rw [hf.eq]
    exact s.dropSlot_status.trans h.status
  · exact State.agentSteps_of_agentStep (K := fun t => t.inflight = none) (fun e _ _ => State.agentStep_inflight e)
      (s.dropSlot_inflight.trans h.inflight)
  · refine State.agentSteps_of_agentStep
      (K := fun t => t.hist.filter BusEvent.byBlock = es ++ s₀.hist.filter BusEvent.byBlock)
      (fun e _ t ht => (t.agentStep_byBlock e).trans ht) ?_
    rw [s.dropSlot_hist]
    exact h.hist

/-- Short of a reset only a fault or a hung handler keeps a command from its next transaction. -/
theorem ReadOn.pass (h : ReadOn s₀ (k + 1) es s) :
    (Machine.pass s).Ends (fun _ => ReadOn s₀ k es) (Abandoned s₀) False := by
  have hafter := h.afterSlot
  obtain ⟨hp, -⟩ | ⟨hp, hstop⟩ := pass_cases s <;> rw [hp]
  · exact hafter
  · have hslots := h.slots
    rw [State.slotsAhead_succ, List.forall_mem_cons] at hslots
    have hno : s.nextSlot.any EnvEvent.isReset = false := List.any_eq_false.2 fun e he => by simp [hslots.1 e he]
    refine ⟨hafter.cs, hafter.ts, hafter.status, hafter.inflight, ?_⟩
    obtain hrun | hhang | hany := hstop
    · exact .inl hrun
    · exact .inr hhang
    · rw [hno] at hany
      cases hany

theorem ReadOn.txRead (h : ReadOn s₀ (k + 1) es s) (r : RegId) :
    (Machine.txRead r s).Ends (fun v => ReadOn s₀ k (.read .block r v :: es)) (Abandoned s₀) False := by
  refine h.pass.andThen fun _ t ht => ?_
  have hhist := t.busRead_hist .block r
  have hb := t.busRead_frame .block r
  refine ⟨?_, ?_, ?_, ?_, ?_, ?_, ?_⟩
  case refine_6 => rw [hhist, List.filter_cons_of_pos rfl, ht.hist, List.cons_append]
  case refine_7 =>
    have henv : (t.busRead .block r).2.env = t.env := by rw [hb.eq]
    have hloop : (t.busRead .block r).2.envLoop = t.envLoop := by rw [hb.eq]
    rw [State.slotsAhead_congr henv hloop]
    exact ht.slots
  all_goals rw [hb.eq]
  exacts [ht.params, ht.cs, ht.ts, ht.status, ht.inflight]

theorem ReadOn.fullRead (h : ReadOn s₀ (k + 3) es s) :
    (Machine.fullRead s).Ends (fun c => ReadOn s₀ k (fullReadEvents c ++ es)) (Abandoned s₀) False :=
  (h.txRead _).andThen fun _ _ h0 => (h0.txRead _).andThen fun _ _ h1 => (h1.txRead _).andThen fun _ _ h2 => h2

theorem ReadOn.readRound (h : ReadOn s₀ 6 es s) :
    (Machine.readRound s).Ends
      (fun r t => ∃ a b, r = (if a = b then some b else none) ∧ ReadOn s₀ 0 (fullReadEvents b ++ (fullReadEvents a ++ es)) t)
      (Abandoned s₀) False :=
  h.fullRead.andThen fun a _ ha => ha.fullRead.andThen fun b _ hb => ⟨a, b, rfl, hb⟩

end

/-! ### RTCREAD -/

/-- The ways a round of RTCREAD can end short of a reset: with its words captured, in flight, or abandoned (R171, R172). -/
inductive RtcreadEnded (s₀ : State) : State → Prop
  | captured {t : State} (c : Capture) (h : ReadOn s₀ 0 (fullReadEvents c ++ fullReadEvents c) t) :
      RtcreadEnded s₀ ((t.captured c).setFlags (.done :: flagIf (c.decodeCT.valid s₀.params) .valid))
  | flight {t : State} (a b : Capture) (hne : a ≠ b) (h : ReadOn s₀ 0 (fullReadEvents b ++ fullReadEvents a) t) :
      RtcreadEnded s₀ { t with inflight := some .rtcread }
  | abandoned {t : State} (h : Abandoned s₀ t) : RtcreadEnded s₀ t

theorem readLoop_rtcread_ends {s : State} (hrest : s.inflight = none)
    (hslots : ∀ sl ∈ s.slotsAhead 6, ∀ e ∈ sl, EnvEvent.isReset e = false) :
    Leads (RtcreadEnded s) False (readLoop .rtcread s).outcome := by
  have hstart : ReadOn s 6 [] s := ⟨rfl, rfl, rfl, rfl, hrest, rfl, hslots⟩
  refine Run.Ends.outcome (X := Abandoned s) (hstart.readRound.andThen fun r t ⟨a, b, hr, ht⟩ => ?_) fun _ => .abandoned
  rw [List.append_nil] at ht
  by_cases hab : a = b
  · subst hab
    rw [if_pos rfl] at hr
    subst hr
    have hend : finishRead .rtcread (t.captured a) =
        .ok () ((t.captured a).setFlags (.done :: flagIf (a.decodeCT.valid s.params) .valid)) := by
      rw [finishRead, finishRtcread, State.captured_ts, State.captured_params, ht.params]
    change Run.Ends _ _ _ (finishRead .rtcread (t.captured a))
    rw [hend]
    exact .captured a ht
  · rw [if_neg hab] at hr
    subst hr
    exact .flight a b hab ht

/-- The first round of a command's tear-free read and a later one are the same round. -/
theorem readLoop_of_round {i : Instr} {c : InFlight} {s t : State}
    (hexec : exec i s = whenRunning s (readLoop c s).outcome) (hrun : s.run = .running)
    (h : (s.inflight = none ∧ exec i s = .next t) ∨ (s.inflight = some c ∧ step s = .next t)) :
    (readLoop c { s with inflight := none }).outcome = .next t := by
  obtain ⟨hrest, ht⟩ | ⟨hflight, ht⟩ := h
  · have hs : { s with inflight := none } = s := by
      obtain ⟨⟩ := s
      cases hrest
      rfl
    rw [hs, ← ht, hexec, whenRunning_of_running hrun]
  · rw [← ht, step_of_flight hflight]

/-- Settles O43: the first round and a later one are the same round of the read. -/
theorem rtcreadReturnsOnlyTwoEqualFullReads : Obligations.RtcreadReturnsOnlyTwoEqualFullReads := by
  intro s t hrun hhang hround
  by_cases hreset : ∃ sl ∈ s.slotsAhead 6, ∃ e ∈ sl, EnvEvent.isReset e = true
  · exact .inr (.inr (.inr hreset))
  let u : State := { s with inflight := none }
  have hslots : ∀ sl ∈ u.slotsAhead 6, ∀ e ∈ sl, EnvEvent.isReset e = false := by
    rw [State.slotsAhead_congr (s := u) (t := s) rfl rfl]
    intro sl hsl e he
    exact Bool.eq_false_iff.2 fun hr => hreset ⟨sl, hsl, e, he, hr⟩
  have hloop : (readLoop .rtcread u).outcome = .next t := readLoop_of_round rfl hrun hround
  cases (readLoop_rtcread_ends rfl hslots).next hloop with
  | captured c h => exact .inl ⟨c, rfl, rfl, h.inflight, statusOf_done_valid _, h.hist⟩
  | flight a b hne h => exact .inr (.inl ⟨a, b, hne, rfl, h.cs, h.ts, h.status, h.hist⟩)
  | abandoned h => exact .inr (.inr (.inl ⟨h.cs, h.ts, h.status, h.inflight, h.stopped⟩))

end Sys2Proof.Machine
end

section
/-! PROOF. A round of the tear-free read between the calendar agent's steps (R173, R174): the words it reads are the calendar's
at each read, whatever the read itself moves. -/

namespace Sys2Proof.Machine

open Sys2Proof

/-! ### What the calendar agent does not look at -/

/-- The state with other clock registers, another history, another command in flight and another schedule. -/
def State.recast (c : ClockRegs) (h : List BusEvent) (f : Option InFlight) (e : List Slot) (s : State) : State :=
  { s with clk := c, hist := h, inflight := f, env := e }

/-- The same with the schedule kept. -/
def State.recastBus (c : ClockRegs) (h : List BusEvent) (f : Option InFlight) (s : State) : State := s.recast c h f s.env

section
variable {s : State} {c : ClockRegs} {h : List BusEvent} {f : Option InFlight} {sl : Slot} {k : Nat}

theorem State.calendar_agentStep_recast {e : EnvEvent} (he : e.isCalendar = true) (c : ClockRegs) (h : List BusEvent)
    (f : Option InFlight) (env : List Slot) (s : State) :
    (s.recast c h f env).agentStep e = (s.agentStep e).recast c h f env := by
  have step (t : RtcTime) (tick : Bool) (s : State) :
      (s.recast c h f env).calendarStep t tick = (s.calendarStep t tick).recast c h f env := by
    rw [State.calendarStep, State.calendarStep, apply_ite (State.recast c h f env)]
    rfl
  cases e with
  | rtcStep t tick => exact step t tick s
  | rtcSecond =>
    have second := step (s.rtc.time.succ s.params) true s
    have drawn := step (Capture.decodeCT ⟨Config.freeWord s.draws, Config.freeWord (s.draws + 1),
      Config.freeWord (s.draws + 2)⟩) true { s with draws := s.draws + 3 }
    change ite _ (ite _ _ _) _ = State.recast c h f env (ite _ (ite _ _ _) _)
    rw [apply_ite (State.recast c h f env), apply_ite (State.recast c h f env), ← second, ← drawn]
    rfl
  | foreign _ | tick _ _ | fault _ | halt | reset _ => cases he

theorem State.calendar_agentSteps_recast (hsl : ∀ e ∈ sl, e.isCalendar = true) (c : ClockRegs) (h : List BusEvent)
    (f : Option InFlight) (env : List Slot) (s : State) :
    (s.recast c h f env).agentSteps sl = (s.agentSteps sl).recast c h f env := by
  induction sl generalizing s with
  | nil => rfl
  | cons e sl ih =>
    obtain ⟨he, hsl⟩ := List.forall_mem_cons.1 hsl
    rw [State.agentSteps_cons, State.agentSteps_cons, State.calendar_agentStep_recast he, ih hsl]

/-- Taking the slot first or last makes no difference to the calendar agent. -/
theorem State.Undisturbed.afterSlot_recast (hs : s.Undisturbed (k + 1)) :
    s.afterSlot = (s.agentSteps s.nextSlot).recast s.clk s.hist s.inflight s.dropSlot.env := by
  have hdrop : s.dropSlot = s.recast s.clk s.hist s.inflight s.dropSlot.env := by
    unfold State.dropSlot
    split <;> rfl
  rw [← State.calendar_agentSteps_recast hs.nextSlot, ← hdrop, State.afterSlot]

theorem State.Undisturbed.afterSlot_recastBus (hs : s.Undisturbed (k + 1)) (c : ClockRegs) (h : List BusEvent)
    (f : Option InFlight) : (s.recastBus c h f).afterSlot = s.afterSlot.recastBus c h f := by
  have hdrop : (s.recastBus c h f).dropSlot = s.dropSlot.recast c h f s.dropSlot.env := by
    unfold State.dropSlot State.recastBus State.recast
    dsimp only
    split <;> simp_all
  have hsteps := State.calendar_agentSteps_recast hs.nextSlot c h f s.dropSlot.env s.dropSlot
  have hkept : s.afterSlot.recastBus c h f = s.afterSlot.recast c h f s.dropSlot.env := by
    rw [State.recastBus, s.afterSlot_schedule.1]
  rw [hkept, State.afterSlot, hdrop]
  exact hsteps

theorem State.Undisturbed.recastBus (hs : s.Undisturbed k) (c : ClockRegs) (h : List BusEvent) (f : Option InFlight) :
    (s.recastBus c h f).Undisturbed k := by
  have hslots : (s.recastBus c h f).slotsAhead k = s.slotsAhead k :=
    State.slotsAhead_congr (s := s.recastBus c h f) (t := s) rfl rfl k
  refine ⟨?_, hs.run, hs.hang⟩
  rw [State.noForeign, hslots]
  exact hs.slots

/-! ### The words of a round -/

/-- A read of the calendar between its steps, with nothing pending: the word is the calendar's after the slot. -/
theorem State.Undisturbed.txRead_recastBus (hs : s.Undisturbed (k + 1)) (hc : c.pllconPend = none ∧ c.pllcfgPend = none)
    (h : List BusEvent) (f : Option InFlight) {r : RegId} {v : Word} (hv : ∀ c, readView c s.afterSlot.rtc r = some v) :
    Machine.txRead r (s.recastBus c h f) = .ok v (s.afterSlot.recastBus c.discard (.read .block r v :: h) f) := by
  have hpass := ((hs.recastBus c h f).txRead r).1
  rw [hs.afterSlot_recastBus c h f,
    State.busRead_feedQuiet (s := s.afterSlot.recastBus c h f) hc (hv c)] at hpass
  rw [hpass, ClockRegs.discard_of_nonePending hc.1 hc.2]
  rfl

/-- The state after `k` slots of the other agents. -/
def State.afterSlots : Nat → State → State
  | 0, s => s
  | k + 1, s => s.afterSlot.afterSlots k

theorem State.Undisturbed.afterSlots {j : Nat} (hs : s.Undisturbed (j + k)) :
    (s.afterSlots j).Undisturbed k ∧ SameButSlots s (s.afterSlots j) := by
  induction j generalizing s with
  | zero => exact ⟨by rwa [Nat.zero_add] at hs, .refl s⟩
  | succ j ih =>
    rw [Nat.add_right_comm] at hs
    obtain ⟨h1, h2⟩ := ih hs.pass.2
    exact ⟨h1, hs.afterSlot_frame.trans h2⟩

theorem State.Undisturbed.fullRead_recastBus (hs : s.Undisturbed (k + 3)) (hc : c.pllconPend = none ∧ c.pllcfgPend = none)
    (h : List BusEvent) (f : Option InFlight) :
    let w : Capture := ⟨(s.afterSlots 1).rtc.time.ct0, (s.afterSlots 2).rtc.time.ct1, (s.afterSlots 3).rtc.time.ct2⟩
    Machine.fullRead (s.recastBus c h f) = .ok w ((s.afterSlots 3).recastBus c.discard (fullReadEvents w ++ h) f) := by
  intro w
  have hs1 := hs.pass.2
  have hs2 := hs1.pass.2
  rw [Machine.fullRead, hs.txRead_recastBus (r := .ct0) hc h f fun _ => rfl, Run.andThen_ok,
    hs1.txRead_recastBus (r := .ct1) ⟨rfl, rfl⟩ _ f fun _ => rfl, Run.andThen_ok,
    hs2.txRead_recastBus (r := .ct2) ⟨rfl, rfl⟩ _ f fun _ => rfl, Run.andThen_ok]
  rfl

/-- A round of the tear-free read between the calendar's steps, with nothing pending (R171, R173). -/
theorem State.Undisturbed.readRound_recastBus (hs : s.Undisturbed 6) (hc : c.pllconPend = none ∧ c.pllcfgPend = none)
    (h : List BusEvent) (f : Option InFlight) :
    Machine.readRound (s.recastBus c h f) =
      .ok (if s.roundAhead.1 = s.roundAhead.2 then some s.roundAhead.2 else none)
        ((s.afterSlots 6).recastBus c.discard (fullReadEvents s.roundAhead.2 ++ (fullReadEvents s.roundAhead.1 ++ h)) f) := by
  have hs3 : (s.afterSlots 3).Undisturbed (0 + 3) := (State.Undisturbed.afterSlots (j := 3) hs).1
  rw [Machine.readRound, State.Undisturbed.fullRead_recastBus (k := 3) hs hc h f, Run.andThen_ok,
    hs3.fullRead_recastBus ⟨rfl, rfl⟩ _ f, Run.andThen_ok]
  rfl

end

/-! ### A round that fails, and one that succeeds -/

/-- Where the six reads of a round leave the machine, with nothing pending and no command in flight. -/
def State.roundEnd (s : State) : State :=
  (s.afterSlots 6).recastBus s.clk.discard
    (fullReadEvents s.roundAhead.2 ++ (fullReadEvents s.roundAhead.1 ++ s.hist)) none

/-- What a step that is a round of RTCREAD leaves (R171, R173). -/
theorem readLoop_rtcread_undisturbed {s : State} (hs : s.Undisturbed 6) (hp : s.feedQuiet) :
    (readLoop .rtcread { s with inflight := none }).outcome = .next
      (if s.roundAhead.1 = s.roundAhead.2 then
        (s.roundEnd.captured s.roundAhead.2).setFlags
          (.done :: flagIf (s.roundAhead.2.decodeCT.valid s.roundEnd.params) .valid)
      else { s.roundEnd with inflight := some .rtcread }) := by
  have hround : readRound { s with inflight := none } = _ := hs.readRound_recastBus hp s.hist none
  rw [readLoop, hround, Run.andThen_ok]
  by_cases hab : s.roundAhead.1 = s.roundAhead.2
  · rw [if_pos hab, if_pos hab]
    rfl
  · rw [if_neg hab, if_neg hab]
    rfl

/-- A round whose two full reads differ. -/
theorem rtcread_round_fails {s : State} (hrun : s.run = .running) (hhang : s.tickHang = none)
    (hflight : s.inflight = some .rtcread) (hp : s.feedQuiet) (hslots : s.noForeign 6)
    (hne : s.roundAhead.1 ≠ s.roundAhead.2) :
    ∃ t, step s = .next t ∧ t.inflight = some .rtcread ∧ t.run = .running ∧ t.tickHang = none ∧ t.feedQuiet ∧
      t.cs = s.cs ∧ t.ts = s.ts ∧ t.status = s.status ∧
      t.hist = fullReadEvents s.roundAhead.2 ++ fullReadEvents s.roundAhead.1 ++ s.hist := by
  have hs : s.Undisturbed 6 := ⟨hslots, hrun, hhang⟩
  obtain ⟨hafter, hframe⟩ := State.Undisturbed.afterSlots (j := 6) (k := 0) hs
  have hloop := readLoop_rtcread_undisturbed hs hp
  rw [if_neg hne, ← step_of_flight hflight] at hloop
  refine ⟨_, hloop, rfl, hafter.run, hafter.hang, ⟨rfl, rfl⟩, ?_, ?_, ?_, (List.append_assoc ..).symm⟩
  · exact (congrArg State.cs hframe.eq :)
  · exact (congrArg State.ts hframe.eq :)
  · exact (congrArg State.status hframe.eq :)

/-- Settles O44, by induction on the number of rounds. -/
theorem rtcreadNeverEndsOnAnUnendingChange : Obligations.RtcreadNeverEndsOnAnUnendingChange := by
  refine ⟨fun s hrun hhang hflight hp hslots hne => rtcread_round_fails hrun hhang hflight hp hslots hne, fun k => ?_⟩
  induction k with
  | zero =>
    intro s _ _ hflight _ _
    exact ⟨s, rfl, hflight, rfl, rfl, rfl⟩
  | succ k ih =>
    intro s hrun hhang hflight hp hround
    obtain ⟨hslots, hne⟩ := hround 0 s (Nat.succ_pos k) rfl
    obtain ⟨t, hstep, hflight', hrun', hhang', hp', hcs, hts, hstatus, -⟩ :=
      rtcread_round_fails hrun hhang hflight hp hslots hne
    have hafter (j : Nat) : core.run (j + 1) s = core.run j t := by
      have hcore : core.step s = .next t := hstep
      simp only [Host.Core.run, hcore]
    obtain ⟨u, hu, huflight, hucs, huts, hustatus⟩ := ih t hrun' hhang' hflight' hp' fun j u hj hu =>
      hround (j + 1) u (Nat.succ_lt_succ hj) ((hafter j).trans hu)
    exact ⟨u, (hafter k).trans hu, huflight, hucs.trans hcs, huts.trans hts, hustatus.trans hstatus⟩

/-! ### One instant -/

/-- Where the calendar stands at the end of the steps is in the trace of CT0. -/
theorem ct0_agentSteps_mem_trace (es : List EnvEvent) (s : State) : (s.agentSteps es).rtc.time.ct0 ∈ ct0Trace es s := by
  induction es generalizing s with
  | nil => exact List.mem_singleton_self _
  | cons e es ih => exact List.mem_cons_of_mem _ (ih (s.agentStep e))

/-- If CT0 never repeats, it comes back to where it was only when nothing has happened. -/
theorem eq_nil_of_ct0Trace_nodup {es : List EnvEvent} {s : State} (h : (ct0Trace es s).Nodup)
    (hback : (s.agentSteps es).rtc.time.ct0 = s.rtc.time.ct0) : es = [] := by
  cases es with
  | nil => rfl
  | cons e es =>
    have hmem : s.rtc.time.ct0 ∈ ct0Trace es (s.agentStep e) := hback ▸ ct0_agentSteps_mem_trace es (s.agentStep e)
    exact absurd hmem (List.nodup_cons.1 h).1

section
variable {s : State} {k : Nat}

theorem State.agentSteps_append (sl sl' : Slot) (s : State) : s.agentSteps (sl ++ sl') = (s.agentSteps sl).agentSteps sl' :=
  List.foldl_append

/-- Calendar steps in three slots one after the other are those of one slot, to the calendar. -/
theorem State.Undisturbed.afterSlots_rtc (hs : s.Undisturbed (k + 3)) :
    (s.afterSlots 3).rtc =
      (s.agentSteps (s.nextSlot ++ s.afterSlot.nextSlot ++ s.afterSlot.afterSlot.nextSlot)).rtc := by
  have hs1 := hs.pass.2
  have hs2 := hs1.pass.2
  have e1 := hs.afterSlot_recast
  have e2 := hs1.afterSlot_recast
  have e3 := hs2.afterSlot_recast
  have through (sl sl' : Slot) (h : ∀ e ∈ sl', e.isCalendar = true) {c h' f env} {t : State}
      (ht : t = (s.agentSteps sl).recast c h' f env) : (t.agentSteps sl') = (s.agentSteps (sl ++ sl')).recast c h' f env := by
    rw [ht, State.calendar_agentSteps_recast h, State.agentSteps_append]
  rw [through _ _ hs1.nextSlot e1] at e2
  rw [through _ _ hs2.nextSlot e2] at e3
  exact (congrArg State.rtc e3 :)

/-- If the calendar is stopped, or no step comes, it holds still over a slot. -/
theorem State.Undisturbed.afterSlot_still (hs : s.Undisturbed (k + 1)) (h : s.rtc.clken = false ∨ s.nextSlot = []) :
    s.afterSlot.rtc = s.rtc := by
  obtain hstop | hnone := h
  · exact hs.afterSlot_stopped hstop
  · rw [State.afterSlot, hnone, State.agentSteps_nil, s.dropSlot_rtc]

end

/-- A successful round under `Ct0Moves` shows one instant (R174). -/
theorem roundAhead_instant {s : State} (hs : s.Undisturbed 6)
    (hmoves : s.rtc.clken = true →
      (ct0Trace (s.afterSlot.nextSlot ++ s.afterSlot.afterSlot.nextSlot ++ s.afterSlot.afterSlot.afterSlot.nextSlot)
        s.afterSlot).Nodup)
    (heq : s.roundAhead.1 = s.roundAhead.2) : s.roundAhead.2 = s.afterSlot.rtc.time.words := by
  have hs0 : s.afterSlot.Undisturbed 5 := hs.pass.2
  have hs1 : s.afterSlot.afterSlot.Undisturbed 4 := hs0.pass.2
  have hck : s.afterSlot.rtc.clken = s.rtc.clken := hs.afterSlot_ccr.1
  have hstill : s.rtc.clken = false ∨ s.afterSlot.nextSlot = [] ∧ s.afterSlot.afterSlot.nextSlot = [] := by
    cases hc : s.rtc.clken with
    | false => exact .inl rfl
    | true =>
      have hback : (s.afterSlot.afterSlots 3).rtc.time.ct0 = s.afterSlot.rtc.time.ct0 := (congrArg Capture.c0 heq).symm
      rw [State.Undisturbed.afterSlots_rtc (k := 2) hs0] at hback
      have hnone := eq_nil_of_ct0Trace_nodup (hmoves hc) hback
      rw [List.append_eq_nil_iff, List.append_eq_nil_iff] at hnone
      exact .inr hnone.1
  have h1 : s.afterSlot.afterSlot.rtc = s.afterSlot.rtc :=
    hs0.afterSlot_still (hstill.imp (fun h => hck.trans h) And.left)
  have h2 : s.afterSlot.afterSlot.afterSlot.rtc = s.afterSlot.afterSlot.rtc :=
    hs1.afterSlot_still (hstill.imp (fun h => h1 ▸ hck.trans h) And.right)
  rw [← heq]
  simp only [State.roundAhead, h2, h1]
  rfl

/-- Settles O45. -/
theorem rtcreadReturnsASingleInstant : Obligations.RtcreadReturnsASingleInstant := by
  intro s t e0 e1 e2 e3 e4 e5 hrun hhang hp hslots hahead hmoves hround hend
  have hs : s.Undisturbed 6 := ⟨hslots, hrun, hhang⟩
  simp only [State.slotsAhead_succ, List.cons.injEq] at hahead
  obtain ⟨rfl, rfl, rfl, rfl, -⟩ := hahead
  have hloop : (readLoop .rtcread { s with inflight := none }).outcome = .next t := readLoop_of_round rfl hrun hround
  rw [readLoop_rtcread_undisturbed hs hp] at hloop
  by_cases heq : s.roundAhead.1 = s.roundAhead.2
  · rw [if_pos heq] at hloop
    cases hloop
    have hwords := roundAhead_instant hs hmoves heq
    refine ⟨hwords, ?_⟩
    rw [State.setFlags_ts, State.captured_ts, hwords, RtcTime.decodeCT_words]
    rfl
  · rw [if_neg heq] at hloop
    cases hloop
    cases hend

end Sys2Proof.Machine
end

section
/-! PROOF. A round of the tear-free read and the validation after it between the calendar agent's steps, whatever is pending
(R171, R185, R186). -/

namespace Sys2Proof.Machine

open Sys2Proof

/-- `n` slots of calendar steps have passed: RTCCCR is as it was, and the slots after them are coming. -/
structure Passed (n : Nat) (s t : State) : Prop where
  clken : t.rtc.clken = s.rtc.clken
  ccrx : t.rtc.ccrx = s.rtc.ccrx
  ahead : ∀ k, (s.slotsAhead (n + k)).drop n = t.slotsAhead k

/-- `n` reads of the block, the events `es`, between calendar steps. -/
structure Fetched (n : Nat) (es : List BusEvent) (s t : State) : Prop extends Passed n s t where
  frame : SameButSlots s t
  hist : t.hist = es ++ s.hist
  clk : s.feedQuiet → t.clk = s.clk.discard

section
variable {n n' k : Nat} {es es' : List BusEvent} {s t u : State}

theorem Passed.trans (h : Passed n s t) (h' : Passed n' t u) : Passed (n + n') s u where
  clken := h'.clken.trans h.clken
  ccrx := h'.ccrx.trans h.ccrx
  ahead k := by rw [← h'.ahead k, ← h.ahead (n' + k), List.drop_drop, Nat.add_assoc]

theorem State.Undisturbed.passed_afterSlot (h : s.Undisturbed (k + 1)) : Passed 1 s s.afterSlot where
  clken := h.afterSlot_ccr.1
  ccrx := h.afterSlot_ccr.2
  ahead j := by rw [Nat.add_comm 1 j, State.slotsAhead_succ, List.drop_succ_cons, List.drop_zero]

/-- A transaction takes no slot. -/
theorem SameButBus.ahead (h : SameButBus s t) (k : Nat) : t.slotsAhead k = s.slotsAhead k := by
  have henv : t.env = s.env := by rw [h.eq]
  have hloop : t.envLoop = s.envLoop := by rw [h.eq]
  exact State.slotsAhead_congr henv hloop k

theorem Fetched.trans (h : Fetched n es s t) (h' : Fetched n' es' t u) : Fetched (n + n') (es' ++ es) s u where
  toPassed := h.toPassed.trans h'.toPassed
  frame := h.frame.trans h'.frame
  hist := by rw [h'.hist, h.hist, List.append_assoc]
  clk hp := by
    have ht := h.clk hp
    rw [h'.clk (by rw [State.feedQuiet, ht]; exact ⟨rfl, rfl⟩), ht]
    rfl

/-! ### The tear-free read -/

theorem State.Undisturbed.txRead_fetched (h : s.Undisturbed (k + 1)) (r : RegId) :
    ∃ v t, Machine.txRead r s = .ok v t ∧ t.Undisturbed k ∧ Fetched 1 [.read .block r v] s t := by
  obtain ⟨hread, hafter⟩ := h.txRead r
  have hb := s.afterSlot.busRead_frame .block r
  have hrtc := s.afterSlot.busRead_rtc .block r
  have hpassed := h.passed_afterSlot
  refine ⟨_, _, hread, hafter, ⟨?_, ?_, fun k => ?_⟩, h.afterSlot_frame.trans hb.slots, ?_, fun ⟨h1, h2⟩ => ?_⟩
  · rw [hrtc, hpassed.clken]
  · rw [hrtc, hpassed.ccrx]
  · rw [hb.ahead, hpassed.ahead]
  · rw [State.busRead_hist, h.afterSlot_hist]
    rfl
  · rw [State.busRead_clk, h.afterSlot_clk, ClockRegs.intervene_nonePending h1 h2]

theorem State.Undisturbed.fullRead_fetched (h : s.Undisturbed (k + 3)) :
    ∃ c t, Machine.fullRead s = .ok c t ∧ t.Undisturbed k ∧ Fetched 3 (fullReadEvents c) s t := by
  obtain ⟨c0, t0, e0, h0, f0⟩ := h.txRead_fetched .ct0
  obtain ⟨c1, t1, e1, h1, f1⟩ := h0.txRead_fetched .ct1
  obtain ⟨c2, t2, e2, h2, f2⟩ := h1.txRead_fetched .ct2
  refine ⟨⟨c0, c1, c2⟩, t2, ?_, h2, (f0.trans f1).trans f2⟩
  rw [Machine.fullRead, e0, Run.andThen_ok, e1, Run.andThen_ok, e2, Run.andThen_ok]

/-- A round of the tear-free read between calendar steps (R171). -/
theorem State.Undisturbed.readRound_fetched (h : s.Undisturbed (k + 6)) :
    ∃ a b t, Machine.readRound s = .ok (if a = b then some b else none) t ∧ t.Undisturbed k ∧
      Fetched 6 (fullReadEvents b ++ fullReadEvents a) s t := by
  obtain ⟨a, t, ea, ha, fa⟩ := State.Undisturbed.fullRead_fetched (k := k + 3) h
  obtain ⟨b, u, eb, hb, fb⟩ := ha.fullRead_fetched
  refine ⟨a, b, u, ?_, hb, fa.trans fb⟩
  rw [Machine.readRound, ea, Run.andThen_ok, eb, Run.andThen_ok]

/-- A round between calendar steps: the command stays in flight, or it goes on with the words that agree (R171, R173). -/
theorem State.Undisturbed.readLoop_cases (h : s.Undisturbed (k + 6)) (c : InFlight) :
    (∃ a b t, a ≠ b ∧ readLoop c s = .ok () { t with inflight := some c } ∧ t.Undisturbed k ∧
      Fetched 6 (fullReadEvents b ++ fullReadEvents a) s t) ∨
    (∃ w t, readLoop c s = finishRead c (t.captured w) ∧ t.Undisturbed k ∧
      Fetched 6 (fullReadEvents w ++ fullReadEvents w) s t) := by
  obtain ⟨a, b, t, hround, ht, hf⟩ := h.readRound_fetched
  by_cases hab : a = b
  · subst hab
    exact .inr ⟨a, t, by rw [readLoop, hround, Run.andThen_ok, if_pos rfl], ht, hf⟩
  · exact .inl ⟨a, b, t, hab, by rw [readLoop, hround, Run.andThen_ok, if_neg hab], ht, hf⟩

/-! ### The validation -/

/-- What is captured is no part of what disturbs a command. -/
theorem State.Undisturbed.own {ts : RtcTime} {cs : Capture} (h : s.Undisturbed k) :
    { s with ts := ts, cs := cs }.Undisturbed k := by
  have hslots : { s with ts := ts, cs := cs }.slotsAhead k = s.slotsAhead k :=
    State.slotsAhead_congr (s := { s with ts := ts, cs := cs }) (t := s) rfl rfl k
  refine ⟨?_, h.run, h.hang⟩
  rw [State.noForeign, hslots]
  exact h.slots

/-- Startup validation between calendar steps keeps a valid time, or replaces it by the epoch (R185). -/
theorem validateBody_undisturbed (h : s.Undisturbed (10 + k + 1)) :
    (s.ts.valid s.params = true ∧ validateBody s = .ok .valid s) ∨
    (s.ts.valid s.params = false ∧ ∃ t, validateBody s = .ok .replaced t ∧
      calendarBody { s with ts := epoch s.params } = .ok () t ∧ t.Undisturbed k ∧
      SameButSlots { s with ts := epoch s.params } t ∧
      t.rtc = { time := epoch s.params, clken := true, ccrx := s.rtc.ccrx, tickif := t.rtc.tickif } ∧
      t.hist = calendarEvents s.rtc.ccrWord (epoch s.params) ++ s.hist) := by
  cases hvalid : s.ts.valid s.params with
  | true => exact .inl ⟨rfl, by rw [validateBody, if_pos hvalid]⟩
  | false =>
    obtain ⟨t, hbody, ht, hframe, hrtc, hhist⟩ :=
      calendarBody_undisturbed (State.Undisturbed.own (ts := epoch s.params) (cs := s.cs) h)
    exact .inr ⟨rfl, t, by rw [validateBody, if_neg (by simp [hvalid]), hbody, Run.andThen_ok], hbody, ht, hframe, hrtc,
      hhist⟩

end

/-- Settles O51: a round that ends has captured a time, which validation keeps or replaces. -/
theorem rtcinitPostcondition : Obligations.RtcinitPostcondition := by
  rintro s t hrun hhang hslots ⟨-, -, -, -, -, hepoch, -⟩ hround hend
  have hs : { s with inflight := none }.Undisturbed (11 + 6) :=
    State.Undisturbed.recastBus ⟨hslots, hrun, hhang⟩ s.clk s.hist none
  have hloop : (readLoop .rtcinit { s with inflight := none }).outcome = .next t := readLoop_of_round rfl hrun hround
  obtain ⟨a, b, u, -, hread, -⟩ | ⟨w, u, hread, hu, hf⟩ := hs.readLoop_cases .rtcinit <;> rw [hread] at hloop
  · cases hloop
    cases hend
  have hparams : u.params = s.params := hf.frame.params
  have hword : u.rtc.ccrWord = s.rtc.ccrWord := congrArg₂ (fun b x => x ++ BitVec.ofBool b) hf.clken hf.ccrx
  have hfit : (epoch s.params).valid s.params = true := epoch_valid hepoch
  rw [finishRead, finishRtcinit] at hloop
  obtain ⟨hvalid, hbody⟩ | ⟨hvalid, v, hbody, -, hv, hframe, hrtc, hhist⟩ :=
    validateBody_undisturbed (s := u.captured w) (k := 0) hu.own <;> rw [hbody] at hloop <;> cases hloop <;>
    rw [State.captured_ts, State.captured_params, hparams] at hvalid
  · exact ⟨hvalid, .inl ⟨rfl, rfl, hf.clken, hf.ccrx, hf.hist⟩⟩
  · simp only [State.captured_params, State.captured_rtc, State.captured_hist, hparams] at hframe hrtc hhist
    have hts : v.ts = epoch s.params := hframe.ts
    have hcs : v.cs = w := by rw [hframe.eq]; rfl
    refine ⟨hts ▸ hfit, .inr ⟨rfl, ?_, hts, ?_, ?_, ?_, ?_⟩⟩
    · rw [State.setFlags_cs, hcs, hvalid]
    · rw [State.setFlags_rtc, hrtc]
    · rw [State.setFlags_rtc, hrtc]
    · rw [State.setFlags_rtc, hrtc]
      exact hf.ccrx
    · rw [State.setFlags_hist, State.setFlags_cs, hhist, hf.hist, hword, hcs]
      simp only [List.append_assoc]

end Sys2Proof.Machine
end

section
/-! PROOF. The memory steps of BOOT (R77, R130): the ascending copy and the zeroing as functions of memory, and the same
transactions between the calendar agent's steps. -/

namespace Sys2Proof.Machine

open Sys2Proof

/-! ### The copy as a function of memory -/

/-- Memory after `n` bytes from `src` on were copied to `dst` on, ascending, byte by byte. -/
def Memory.copy : Nat → Nat → Nat → Memory → Memory
  | 0, _, _, m => m
  | n + 1, src, dst, m => Memory.copy n (src + 1) (dst + 1) (Memory.write m dst (Memory.read m src))

/-- The reads and writes of that copy, in order. -/
def copyEvents : Nat → Nat → Nat → Memory → List BusEvent
  | 0, _, _, _ => []
  | n + 1, src, dst, m =>
    .memRead src (Memory.read m src) :: .memWrite dst (Memory.read m src) ::
      copyEvents n (src + 1) (dst + 1) (Memory.write m dst (Memory.read m src))

/-- Where the byte comes from that step `i` of the copy moves: an image that reaches into the region from below comes round
again (R77). -/
def copySource (src dst i : Nat) : Nat := src + if src < dst then i % (dst - src) else i

theorem imageByte_eq (P : Params) (m : Memory) (i : Nat) :
    imageByte P m i = Memory.read m (copySource P.sIdata.toNat P.sData.toNat i) := rfl

section
variable {n src dst : Nat} {m : Memory}

/-- The last byte of the copy. -/
theorem Memory.copy_succ (n src dst : Nat) (m : Memory) :
    Memory.copy (n + 1) src dst m =
      Memory.write (Memory.copy n src dst m) (dst + n) (Memory.read (Memory.copy n src dst m) (src + n)) := by
  induction n generalizing src dst m with
  | zero => rfl
  | succ n ih =>
    rw [Memory.copy, ih, Memory.copy, Nat.add_right_comm dst 1 n, Nat.add_right_comm src 1 n]
    rfl

theorem copyEvents_succ (n src dst : Nat) (m : Memory) :
    copyEvents (n + 1) src dst m =
      copyEvents n src dst m ++
        [.memRead (src + n) (Memory.read (Memory.copy n src dst m) (src + n)),
         .memWrite (dst + n) (Memory.read (Memory.copy n src dst m) (src + n))] := by
  induction n generalizing src dst m with
  | zero => rfl
  | succ n ih =>
    rw [copyEvents, ih, copyEvents, Memory.copy, Nat.add_right_comm dst 1 n, Nat.add_right_comm src 1 n]
    rfl

theorem Memory.wf_copy (hm : Memory.wf m = true) (h : dst + n ≤ 2 ^ 32) : Memory.wf (Memory.copy n src dst m) = true := by
  induction n with
  | zero => exact hm
  | succ n ih =>
    rw [Memory.copy_succ]
    exact Memory.wf_write (ih (by omega)) (by omega) _

/-- What the next step of the copy moves: either the byte is still the image's, or the copy has put it there. -/
theorem copySource_of_lt {i : Nat} (hi : src + i < dst) : copySource src dst i = src + i := by
  rw [copySource, if_pos (by omega), Nat.mod_eq_of_lt (by omega)]

theorem copySource_of_le {i : Nat} (hi : dst ≤ src) : copySource src dst i = src + i := by
  rw [copySource, if_neg (by omega)]

theorem copySource_again {i : Nat} (h : src < dst) (hi : dst ≤ src + i) :
    copySource src dst i = copySource src dst (src + i - dst) := by
  have hback : src + i - dst = i - (dst - src) := by omega
  rw [copySource, copySource, if_pos h, if_pos h, hback, ← Nat.mod_eq_sub_mod (by omega)]

/-- The copy leaves every other address alone. -/
theorem Memory.read_copy_outside {a : Nat} (h : a < dst ∨ dst + n ≤ a) :
    Memory.read (Memory.copy n src dst m) a = Memory.read m a := by
  induction n with
  | zero => rfl
  | succ n ih => rw [Memory.copy_succ, Memory.read_write_of_ne _ _ _ _ (by omega), ih (by omega)]

/-- What the copy leaves in the region, overlaps included, and what its next step then reads (R77). -/
theorem Memory.read_copy (hm : Memory.wf m = true) (h : dst + n ≤ 2 ^ 32) {i : Nat} (hi : i < n) :
    Memory.read (Memory.copy n src dst m) (dst + i) = Memory.read m (copySource src dst i) := by
  induction n generalizing i with
  | zero => exact absurd hi (Nat.not_lt_zero i)
  | succ n ih =>
    rw [Memory.copy_succ]
    obtain hlt | rfl := Nat.lt_succ_iff_lt_or_eq.1 hi
    · rw [Memory.read_write_of_ne _ _ _ _ (by omega), ih (by omega) hlt]
    · rw [Memory.read_write_same (Memory.wf_copy hm (by omega))]
      by_cases hin : src < dst ∧ dst ≤ src + i
      · have hat : src + i = dst + (src + i - dst) := by omega
        rw [copySource_again hin.1 hin.2, ← ih (by omega) (by omega), ← hat]
      · rw [Memory.read_copy_outside (by omega)]
        by_cases hle : dst ≤ src
        · rw [copySource_of_le hle]
        · rw [copySource_of_lt (by omega)]

theorem Memory.read_copy_next (hm : Memory.wf m = true) (h : dst + n < 2 ^ 32) :
    Memory.read (Memory.copy n src dst m) (src + n) = Memory.read m (copySource src dst n) := by
  have hread := Memory.read_copy (src := src) (n := n + 1) hm h (Nat.lt_succ_self n)
  rwa [Memory.copy_succ, Memory.read_write_same (Memory.wf_copy hm (by omega))] at hread

theorem copyEvents_eq (hm : Memory.wf m = true) (h : dst + n ≤ 2 ^ 32) :
    copyEvents n src dst m = (List.range n).flatMap fun i =>
      [.memRead (src + i) (Memory.read m (copySource src dst i)),
       .memWrite (dst + i) (Memory.read m (copySource src dst i))] := by
  induction n with
  | zero => rfl
  | succ n ih =>
    rw [copyEvents_succ, ih (by omega), Memory.read_copy_next hm (by omega), List.range_succ, List.flatMap_append]
    rfl

/-- Zeroing leaves zero. -/
theorem Memory.read_fill_zero {a b : Nat} (hm : Memory.wf m = true) (h : a + n ≤ 2 ^ 32) (h1 : a ≤ b) (h2 : b < a + n) :
    Memory.read (Memory.fill n a [] m) b = 0#8 := by
  induction n generalizing a m with
  | zero => omega
  | succ n ih =>
    rw [Memory.fill]
    by_cases hb : b = a
    · subst hb
      rw [Memory.read_fill_of_outside _ _ _ _ _ (by omega), Memory.read_write_same hm]
      rfl
    · exact ih (Memory.wf_write hm (by omega) _) (by omega) (by omega) (by omega)

end

/-! ### What BOOT leaves in memory -/

/-- Memory after steps 3 and 4 of BOOT (R130). -/
def bootMemory (P : Params) (m : Memory) : Memory :=
  Memory.fill (P.sEbss.toNat - P.sEdata.toNat) P.sEdata.toNat []
    (Memory.copy (P.sEdata.toNat - P.sData.toNat) P.sIdata.toNat P.sData.toNat m)

section
variable {P : Params} {m : Memory}

theorem regions_bounds (hr : P.regionsOk) :
    P.sData.toNat + (P.sEdata.toNat - P.sData.toNat) = P.sEdata.toNat ∧
      P.sEdata.toNat + (P.sEbss.toNat - P.sEdata.toNat) = P.sEbss.toNat ∧ P.sEdata.toNat ≤ 2 ^ 32 ∧
      P.sEbss.toNat ≤ 2 ^ 32 := by
  obtain ⟨h1, h2⟩ := hr
  exact ⟨by omega, by omega, P.sEdata.isLt.le, P.sEbss.isLt.le⟩

theorem bootMemory_image (hr : P.regionsOk) (hm : Memory.wf m = true) {i : Nat}
    (hi : i < P.sEdata.toNat - P.sData.toNat) :
    Memory.read (bootMemory P m) (P.sData.toNat + i) = imageByte P m i := by
  obtain ⟨h1, h2, h3, h4⟩ := regions_bounds hr
  rw [bootMemory, Memory.read_fill_of_outside _ _ _ _ _ (by omega), Memory.read_copy hm (by omega) hi, imageByte_eq]

theorem bootMemory_bss (hr : P.regionsOk) (hm : Memory.wf m = true) {a : Nat} (h : P.sEdata.toNat ≤ a)
    (h' : a < P.sEbss.toNat) : Memory.read (bootMemory P m) a = 0#8 := by
  obtain ⟨h1, h2, h3, h4⟩ := regions_bounds hr
  exact Memory.read_fill_zero (Memory.wf_copy hm (by omega)) (by omega) h (by omega)

theorem bootMemory_outside (hr : P.regionsOk) {a : Nat} (h : a < P.sData.toNat ∨ P.sEbss.toNat ≤ a) :
    Memory.read (bootMemory P m) a = Memory.read m a := by
  obtain ⟨h1, h2, h3, h4⟩ := regions_bounds hr
  obtain ⟨h5, h6⟩ := hr
  rw [bootMemory, Memory.read_fill_of_outside _ _ _ _ _ (by omega), Memory.read_copy_outside (by omega)]

/-- An image that does not overlap the region is copied as it is. -/
theorem imageByte_of_apart (hr : P.regionsOk) {i : Nat} (hi : i < P.sEdata.toNat - P.sData.toNat)
    (h : P.sIdata.toNat + (P.sEdata.toNat - P.sData.toNat) ≤ P.sData.toNat ∨ P.sEdata.toNat ≤ P.sIdata.toNat) :
    imageByte P m i = Memory.read m (P.sIdata.toNat + i) := by
  obtain ⟨h5, h6⟩ := hr
  rw [imageByte_eq]
  obtain h | h := h
  · rw [copySource_of_lt (by omega)]
  · rw [copySource_of_le (by omega)]

end

/-! ### The transactions -/

/-- `n` transactions on memory, the events `es`, between calendar steps; memory is then `m`. -/
structure Stored (n : Nat) (es : List BusEvent) (m : Memory) (s t : State) : Prop extends Passed n s t where
  frame : t = { s with mem := m, rtc := t.rtc, hist := es ++ s.hist, draws := t.draws, env := t.env }
  still : s.quiet → t.rtc = s.rtc ∧ t.draws = s.draws ∧ t.env = s.env

section
variable {n n' k a : Nat} {es es' : List BusEvent} {m m' : Memory} {s t u : State}

theorem Stored.mem (h : Stored n es m s t) : t.mem = m := by rw [h.frame]

theorem Stored.quiet (h : Stored n es m s t) (hq : s.quiet) : t.quiet := by
  refine ⟨(h.still hq).2.2.trans hq.1, ?_⟩
  rw [h.frame]
  exact hq.2

theorem Stored.trans (h : Stored n es m s t) (h' : Stored n' es' m' t u) : Stored (n + n') (es' ++ es) m' s u where
  toPassed := h.toPassed.trans h'.toPassed
  frame := by
    rw [h'.frame, List.append_assoc]
    conv_lhs => rw [h.frame]
  still hq := by
    obtain ⟨h1, h2, h3⟩ := h.still hq
    obtain ⟨h4, h5, h6⟩ := h'.still (h.quiet hq)
    exact ⟨h4.trans h1, h5.trans h2, h6.trans h3⟩

theorem Stored.refl (s : State) : Stored 0 [] s.mem s s where
  clken := rfl
  ccrx := rfl
  ahead k := by rw [Nat.zero_add, List.drop_zero]
  frame := rfl
  still _ := ⟨rfl, rfl, rfl⟩

/-- A transaction on memory after its slot. -/
theorem State.Undisturbed.stored (h : s.Undisturbed (k + 1)) (m : Memory) (e : BusEvent) :
    (State.log e { s.afterSlot with mem := m }).Undisturbed k ∧
      Stored 1 [e] m s (State.log e { s.afterSlot with mem := m }) := by
  have hafter := h.pass.2
  have hpassed := h.passed_afterSlot
  have hahead (k : Nat) : (State.log e { s.afterSlot with mem := m }).slotsAhead k = s.afterSlot.slotsAhead k :=
    State.slotsAhead_congr (s := State.log e { s.afterSlot with mem := m }) (t := s.afterSlot) rfl rfl k
  refine ⟨⟨?_, hafter.run, hafter.hang⟩, ⟨hpassed.clken, hpassed.ccrx, fun j => ?_⟩, ?_, fun hq => ?_⟩
  · rw [State.noForeign, hahead]
    exact hafter.slots
  · rw [hahead, hpassed.ahead]
  · have hclk := h.afterSlot_clk
    have hhist := h.afterSlot_hist
    have hframe := h.afterSlot_frame.eq
    rw [hclk, hhist] at hframe
    rw [hframe]
    rfl
  · rw [State.afterSlot_quiet hq]
    exact ⟨rfl, rfl, rfl⟩

theorem State.Undisturbed.afterSlot_mem (h : s.Undisturbed (k + 1)) : s.afterSlot.mem = s.mem := by
  rw [h.afterSlot_frame.eq]

theorem State.Undisturbed.txMemRead (h : s.Undisturbed (k + 1)) (ha : a < 2 ^ 32) :
    ∃ t, Machine.txMemRead a s = .ok (Memory.read s.mem a) t ∧ t.Undisturbed k ∧
      Stored 1 [.memRead a (Memory.read s.mem a)] s.mem s t := by
  refine ⟨_, ?_, h.stored s.mem (.memRead a (Memory.read s.mem a))⟩
  have hmem : { s.afterSlot with mem := s.mem } = s.afterSlot := by rw [← h.afterSlot_mem]
  rw [Machine.txMemRead, h.pass.1, Run.andThen_ok, if_pos ha, h.afterSlot_mem, hmem]

theorem State.Undisturbed.txMemWrite (h : s.Undisturbed (k + 1)) (ha : a < 2 ^ 32) (b : Byte) :
    ∃ t, Machine.txMemWrite a b s = .ok () t ∧ t.Undisturbed k ∧
      Stored 1 [.memWrite a b] (Memory.write s.mem a b) s t := by
  refine ⟨_, ?_, h.stored (Memory.write s.mem a b) (.memWrite a b)⟩
  rw [Machine.txMemWrite, h.pass.1, Run.andThen_ok, if_pos ha, h.afterSlot_mem]

theorem State.Undisturbed.copyBytes {src dst : Nat} (h : s.Undisturbed (2 * n + k)) (hsrc : src + n ≤ 2 ^ 32)
    (hdst : dst + n ≤ 2 ^ 32) :
    ∃ t, Machine.copyBytes n src dst s = .ok () t ∧ t.Undisturbed k ∧
      Stored (2 * n) (copyEvents n src dst s.mem).reverse (Memory.copy n src dst s.mem) s t := by
  induction n generalizing src dst s with
  | zero => exact ⟨s, rfl, by rwa [Nat.mul_zero, Nat.zero_add] at h, .refl s⟩
  | succ n ih =>
    have hcount : 2 * (n + 1) + k = 2 * n + k + 1 + 1 := by omega
    rw [hcount] at h
    obtain ⟨t, eread, ht, hread⟩ := h.txMemRead (a := src) (by omega)
    obtain ⟨u, ewrite, hu, hwrite⟩ := ht.txMemWrite (a := dst) (by omega) (Memory.read s.mem src)
    obtain ⟨v, erest, hv, hrest⟩ := ih (src := src + 1) (dst := dst + 1) hu (by omega) (by omega)
    refine ⟨v, ?_, hv, ?_⟩
    · rw [Machine.copyBytes, eread, Run.andThen_ok, ewrite, Run.andThen_ok, erest]
    · have hall := (hread.trans hwrite).trans hrest
      rw [hwrite.mem, hread.mem] at hall
      rw [Nat.mul_succ, Nat.add_comm (2 * n) 2, copyEvents, List.reverse_cons, List.reverse_cons, List.append_assoc]
      exact hall

theorem State.Undisturbed.zeroBytes (h : s.Undisturbed (n + k)) (ha : a + n ≤ 2 ^ 32) :
    ∃ t, Machine.zeroBytes n a s = .ok () t ∧ t.Undisturbed k ∧
      Stored n ((List.range n).map fun j => BusEvent.memWrite (a + j) 0#8).reverse (Memory.fill n a [] s.mem) s t := by
  induction n generalizing a s with
  | zero => exact ⟨s, rfl, by rwa [Nat.zero_add] at h, .refl s⟩
  | succ n ih =>
    rw [Nat.add_right_comm] at h
    obtain ⟨t, ewrite, ht, hwrite⟩ := h.txMemWrite (a := a) (by omega) 0#8
    obtain ⟨u, erest, hu, hrest⟩ := ih (a := a + 1) ht (by omega)
    refine ⟨u, ?_, hu, ?_⟩
    · rw [Machine.zeroBytes, ewrite, Run.andThen_ok, erest]
    · have hall := hwrite.trans hrest
      have hshift : (fun j => BusEvent.memWrite (a + j) 0#8) ∘ Nat.succ = fun j => .memWrite (a + 1 + j) 0#8 :=
        funext fun j => by rw [Function.comp, Nat.succ_eq_add_one, Nat.add_right_comm, Nat.add_assoc]
      rw [hwrite.mem, Nat.add_comm 1 n] at hall
      rw [List.range_succ_eq_map, List.map_cons, List.map_map, hshift, List.reverse_cons]
      exact hall

end

end Sys2Proof.Machine
end

section
/-! PROOF. BOOT (R130 to R132): what it leaves when nothing disturbs it, and when only the calendar agent steps. -/

namespace Sys2Proof.Machine

open Sys2Proof

/-! ### The memory steps -/

/-- The stores of steps 3 and 4 of BOOT, newest first (R130, R131). -/
def bootStores (P : Params) (m : Memory) : List BusEvent :=
  ((List.range (P.sEbss.toNat - P.sEdata.toNat)).map fun j => BusEvent.memWrite (P.sEdata.toNat + j) 0#8).reverse ++
    (copyEvents (P.sEdata.toNat - P.sData.toNat) P.sIdata.toNat P.sData.toNat m).reverse

theorem bootStores_setStacks {s : State} (hr : s.params.regionsOk) (hm : Memory.wf s.mem = true) :
    bootStores s.params s.mem ++ s.setStacks.hist = bootMemoryEvents s.params s.mem ++ s.hist := by
  obtain ⟨h1, -, h3, -⟩ := regions_bounds hr
  rw [bootStores, copyEvents_eq hm (by omega), bootMemoryEvents, List.append_assoc _ _ s.hist]
  rfl

/-- How many slots the memory steps of BOOT take. -/
def bootSlots (P : Params) : Nat := 2 * (P.sEdata.toNat - P.sData.toNat) + (P.sEbss.toNat - P.sEdata.toNat)

/-- Steps 1 to 4 of BOOT between calendar steps (R130). -/
theorem memoryBody_undisturbed {s : State} {k : Nat} (h : s.Undisturbed (bootSlots s.params + k))
    (hr : s.params.regionsOk) (hi : s.params.imageOk) :
    ∃ t, memoryBody s = .ok () t ∧ t.Undisturbed k ∧
      Stored (bootSlots s.params) (bootStores s.params s.mem) (bootMemory s.params s.mem) s.setStacks t := by
  obtain ⟨h1, h2, h3, h4⟩ := regions_bounds hr
  have hset : s.setStacks.slotsAhead (bootSlots s.params + k) = s.slotsAhead (bootSlots s.params + k) :=
    State.slotsAhead_congr (s := s.setStacks) (t := s) rfl rfl _
  have hstart : s.setStacks.Undisturbed (bootSlots s.params + k) := by
    refine ⟨?_, h.run, h.hang⟩
    rw [State.noForeign, hset]
    exact h.slots
  rw [bootSlots, Nat.add_assoc] at hstart
  obtain ⟨t, ecopy, ht, hcopy⟩ := hstart.copyBytes (src := s.params.sIdata.toNat) (dst := s.params.sData.toNat) hi (by omega)
  obtain ⟨u, ezero, hu, hzero⟩ := ht.zeroBytes (a := s.params.sEdata.toNat) (by omega)
  rw [hcopy.mem] at hzero
  refine ⟨u, ?_, hu, hcopy.trans hzero⟩
  rw [memoryBody, ecopy, Run.andThen_ok, ezero]

/-- What steps 1 to 4 change, whatever the calendar agent does meanwhile. -/
theorem Stored.boot {s t : State} {n : Nat} (hr : s.params.regionsOk) (hm : Memory.wf s.mem = true)
    (h : Stored n (bootStores s.params s.mem) (bootMemory s.params s.mem) s.setStacks t) :
    t = { s with
      msp := s.params.stackTop
      psp := s.params.stackTop
      mem := bootMemory s.params s.mem
      rtc := t.rtc
      hist := bootMemoryEvents s.params s.mem ++ s.hist
      draws := t.draws
      env := t.env } := by
  rw [← bootStores_setStacks hr hm]
  exact h.frame

/-! ### Undisturbed BOOT -/

theorem State.slotsAhead_quiet {s : State} (h : s.quiet) (k : Nat) : ∀ sl ∈ s.slotsAhead k, sl = [] := by
  induction k with
  | zero => exact fun sl hsl => nomatch hsl
  | succ k ih =>
    rw [State.slotsAhead, State.nextSlot_quiet h, State.dropSlot_quiet h]
    exact List.forall_mem_cons.2 ⟨rfl, ih⟩

theorem State.Calm.undisturbed {s : State} (h : s.Calm) (k : Nat) : s.Undisturbed k := by
  refine ⟨fun sl hsl e he => ?_, h.run, h.hang⟩
  rw [State.slotsAhead_quiet h.quiet k sl hsl] at he
  cases he

/-- The memory steps that nothing disturbs, and the state they leave. -/
theorem memoryBody_calm {s : State} (h : s.Calm) (hr : s.params.regionsOk) (hi : s.params.imageOk)
    (hm : Memory.wf s.mem = true) :
    memoryBody s = .ok () { s with
      msp := s.params.stackTop
      psp := s.params.stackTop
      mem := bootMemory s.params s.mem
      hist := bootMemoryEvents s.params s.mem ++ s.hist } := by
  obtain ⟨t, hbody, -, hstored⟩ := memoryBody_undisturbed (k := 0) (h.undisturbed _) hr hi
  obtain ⟨hrtc, hdraws, henv⟩ := hstored.still h.quiet
  rw [hbody, hstored.boot hr hm, hrtc, hdraws, henv]
  rfl

/-- The end of an undisturbed BOOT: the calendar init and the disable sequence, with nothing pending (R130). -/
theorem readLoop_boot_calm {s : State} (h : s.Calm) (hp : s.feedQuiet) :
    (readLoop .boot s).outcome = .next { s with
      cs := s.rtc.time.words
      ts := if s.rtc.time.valid s.params then s.rtc.time else epoch s.params
      rtc := if s.rtc.time.valid s.params then s.rtc else { s.rtc with time := epoch s.params, clken := true }
      clk := s.clk.disabled
      booted := true
      status := if s.rtc.time.valid s.params then 0x110#32 else 0x140#32
      hist :=
        disableEvents (pllstatWord s.clk.pllconLive s.clk.pllcfgLive)
          ++ (if s.rtc.time.valid s.params then [] else calendarEvents s.rtc.ccrWord (epoch s.params))
          ++ fullReadEvents s.rtc.time.words ++ fullReadEvents s.rtc.time.words ++ s.hist } := by
  let read : List BusEvent := fullReadEvents s.rtc.time.words ++ fullReadEvents s.rtc.time.words ++ s.hist
  rw [readLoop_calm h hp, finishRead, finishBoot]
  let u : State := { s with cs := s.rtc.time.words, ts := s.rtc.time, clk := s.clk.discard, hist := read }
  cases hvalid : s.rtc.time.valid s.params with
  | true =>
    have hvalidate : validateBody u = .ok .valid u := if_pos hvalid
    have hdisable : disableBody u = _ := disableBody_calm (s := u) ⟨h.ready, h.quiet⟩ ⟨rfl, rfl⟩
    rw [hvalidate, Run.andThen_ok, hdisable]
    simp only [if_true, List.append_nil, List.append_assoc]
    rfl
  | false =>
    let v : State := { u with
      ts := epoch s.params, clk := u.clk.discard, rtc := { s.rtc with time := epoch s.params, clken := true },
      hist := calendarEvents s.rtc.ccrWord (epoch s.params) ++ read }
    have hcalendar : calendarBody { u with ts := epoch s.params } = .ok () v :=
      calendarBody_calm (s := { u with ts := epoch s.params }) ⟨h.ready, h.quiet⟩ ⟨rfl, rfl⟩
    have hvalidate : validateBody u = .ok .replaced v := by
      rw [validateBody, if_neg (by simp [u, hvalid]), hcalendar, Run.andThen_ok]
    have hdisable : disableBody v = _ := disableBody_calm (s := v) ⟨h.ready, h.quiet⟩ ⟨rfl, rfl⟩
    rw [hvalidate, Run.andThen_ok, hdisable]
    simp only [Bool.false_eq_true, if_false, List.append_assoc]
    rfl

/-- Settles O34: the memory steps, then the calendar init and the disable sequence. -/
theorem bootEstablishesTheExecutionState : Obligations.BootEstablishesTheExecutionState := by
  rintro s hready hquiet hp ⟨-, -, -, hr, hi, -⟩ hm hbooted P n good
  have hs : s.Calm := ⟨hready, hquiet⟩
  let u : State := { s with
    msp := P.stackTop, psp := P.stackTop, mem := bootMemory P s.mem, hist := bootMemoryEvents P s.mem ++ s.hist }
  have hexec : exec .boot s = (readLoop .boot u).outcome := by
    change execBoot s = _
    rw [execBoot, whenRunning_of_running hs.run, hbooted, if_neg Bool.false_ne_true, memoryBody_calm hs hr hi hm,
      Run.andThen_ok]
  rw [readLoop_boot_calm (s := u) ⟨hready, hquiet⟩ hp] at hexec
  refine ⟨_, hexec, fun i hilt => bootMemory_image hr hm hilt, fun hapart i hilt => ?_,
    fun a => bootMemory_bss hr hm, fun a => bootMemory_outside hr, ?_⟩
  · exact (bootMemory_image hr hm hilt).trans (imageByte_of_apart hr hilt hapart)
  · rw [ClockRegs.disabled_of_nonePending hp.1 hp.2]
    simp only [u, List.append_assoc]
    rfl

end Sys2Proof.Machine
end

section
/-! PROOF. BOOT's postcondition between the calendar agent's steps, in its first round and in later ones (R132). -/

namespace Sys2Proof.Machine

open Sys2Proof

/-! ### What a list of writes does to the schedule and to the calendar -/

theorem State.slotWrite_ahead (w : RegId × Word) (s : State) (k : Nat) :
    (s.slotWrite w.1 w.2).slotsAhead k = s.afterSlot.slotsAhead k :=
  (s.afterSlot.busWrite_frame .block w.1 w.2).ahead k

/-- Each write takes one slot. -/
theorem State.slotWrites_ahead (ws : List (RegId × Word)) (s : State) (k : Nat) :
    (s.slotsAhead (ws.length + k)).drop ws.length = (s.slotWrites ws).slotsAhead k := by
  induction ws generalizing s with
  | nil => rw [List.length_nil, Nat.zero_add, List.drop_zero, State.slotWrites_nil]
  | cons w ws ih =>
    rw [State.slotWrites_cons, ← ih, State.slotWrite_ahead, List.length_cons, Nat.add_right_comm, State.slotsAhead_succ,
      List.drop_succ_cons]

theorem CalendarRegs.put_ccr (c : CalendarRegs) {r : RegId} (h : r ≠ .rtcccr) (v : Word) :
    (c.put r v).clken = c.clken ∧ (c.put r v).ccrx = c.ccrx := by
  cases r with
  | rtcccr => exact absurd rfl h
  | _ => exact ⟨rfl, rfl⟩

/-- Writes of other registers leave RTCCCR as it was. -/
theorem State.Undisturbed.slotWrites_ccr {s : State} {k : Nat} {ws : List (RegId × Word)}
    (h : s.Undisturbed (ws.length + k)) (hw : ∀ w ∈ ws, w.1 ≠ .rtcccr) :
    (s.slotWrites ws).rtc.clken = s.rtc.clken ∧ (s.slotWrites ws).rtc.ccrx = s.rtc.ccrx := by
  induction ws generalizing s with
  | nil => exact ⟨rfl, rfl⟩
  | cons w ws ih =>
    obtain ⟨hclken, hccrx⟩ := h.cons.afterSlot_ccr
    obtain ⟨pclken, pccrx⟩ := s.afterSlot.rtc.put_ccr (hw w List.mem_cons_self) w.2
    obtain ⟨rclken, rccrx⟩ := ih (h.cons.txWrite w.1 w.2).2 fun w' h' => hw w' (List.mem_cons_of_mem _ h')
    rw [State.slotWrite, State.busWrite_rtc] at rclken rccrx
    exact ⟨rclken.trans (pclken.trans hclken), rccrx.trans (pccrx.trans hccrx)⟩

/-- A slot without steps leaves the calendar alone. -/
theorem State.afterSlot_rtc_of_empty {s : State} (h : s.nextSlot = []) : s.afterSlot.rtc = s.rtc := by
  rw [State.afterSlot, h, State.agentSteps_nil, s.dropSlot_rtc]

/-- Where no agent steps, the writes are all that moves the calendar. -/
theorem State.slotWrites_still {ws : List (RegId × Word)} {s : State} (h : ∀ sl ∈ s.slotsAhead ws.length, sl = []) :
    (s.slotWrites ws).rtc = ws.foldl (fun c w => c.put w.1 w.2) s.rtc := by
  induction ws generalizing s with
  | nil => rfl
  | cons w ws ih =>
    rw [List.length_cons, State.slotsAhead_succ, List.forall_mem_cons] at h
    have hrtc : (s.slotWrite w.1 w.2).rtc = s.rtc.put w.1 w.2 := by
      rw [State.slotWrite, State.busWrite_rtc, State.afterSlot_rtc_of_empty h.1]
    rw [State.slotWrites_cons, ih (by rw [State.slotWrite_ahead]; exact h.2), hrtc]
    rfl

/-! ### The disable sequence and the calendar write once more -/

section
variable {s t : State} {k : Nat}

/-- The state after t1 of a sequence, a read of `r`. -/
def State.slotRead (r : RegId) (s : State) : State := (s.afterSlot.busRead .block r).2

theorem State.slotRead_ahead (r : RegId) (s : State) (k : Nat) :
    (s.slotRead r).slotsAhead k = s.afterSlot.slotsAhead k :=
  (s.afterSlot.busRead_frame .block r).ahead k

theorem State.slotRead_rtc (r : RegId) (s : State) : (s.slotRead r).rtc = s.afterSlot.rtc :=
  s.afterSlot.busRead_rtc .block r

/-- The disable sequence leaves RTCCCR as it was; and the whole calendar, if no agent steps (R126). -/
theorem disableBody_rtc (h : s.Undisturbed (11 + k + 1)) (hbody : disableBody s = .ok () t) :
    (t.rtc.clken = s.rtc.clken ∧ t.rtc.ccrx = s.rtc.ccrx) ∧
      ((∀ sl ∈ s.slotsAhead 12, sl = []) → t.rtc = s.rtc) := by
  obtain ⟨hread, hafter⟩ := h.txRead .pllstat
  let ws : List (RegId × Word) := disableWrites (s.afterSlot.busRead .block .pllstat).1
  have hwrites : (s.slotRead .pllstat).Undisturbed (ws.length + k) := hafter
  have ht : t = (s.slotRead .pllstat).slotWrites ws := by
    rw [disableBody, hread, Run.andThen_ok] at hbody
    exact (Run.ok.inj (hbody.symm.trans hwrites.txWrites.1)).2
  obtain ⟨hclken, hccrx⟩ := hwrites.slotWrites_ccr (by simp [ws, disableWrites, feedPair])
  rw [ht]
  refine ⟨⟨?_, ?_⟩, fun hnone => ?_⟩
  · rw [hclken, State.slotRead_rtc, h.afterSlot_ccr.1]
  · rw [hccrx, State.slotRead_rtc, h.afterSlot_ccr.2]
  · rw [State.slotsAhead_succ, List.forall_mem_cons] at hnone
    have hstill : ∀ sl ∈ (s.slotRead .pllstat).slotsAhead ws.length, sl = [] := by
      rw [State.slotRead_ahead]
      exact hnone.2
    rw [State.slotWrites_still hstill, disableWrites_put, State.slotRead_rtc, State.afterSlot_rtc_of_empty hnone.1]

theorem State.Undisturbed.slotRead_clk (h : s.Undisturbed (k + 1)) (hp : s.feedQuiet) (r : RegId) :
    (s.slotRead r).clk = s.clk.discard := by
  rw [State.slotRead, State.busRead_clk, h.afterSlot_clk, ClockRegs.intervene_nonePending hp.1 hp.2]

/-- Writes of the calendar's registers leave the clock registers alone, with nothing pending and feed Idle. -/
theorem clockWrites_calendar {P : Params} {ws : List (RegId × Word)}
    (hws : ∀ w ∈ ws, w.1 ∈ [RegId.rtcccr, .sec, .min, .hour, .dow, .dom, .month, .year, .doy]) (c : ClockRegs) :
    ClockWrites P ws c.discard c.discard := by
  induction ws with
  | nil => exact fun s k hs hP hc => hc
  | cons w ws ih =>
    obtain ⟨r, v⟩ := w
    obtain ⟨hr, hws⟩ := List.forall_mem_cons.1 hws
    have hfree : r ≠ .pllcon ∧ r ≠ .pllcfg ∧ r ≠ .pllfeed ∧ r ≠ .cclkcfg ∧ r ≠ .clksrcsel := by
      refine ⟨?_, ?_, ?_, ?_, ?_⟩ <;> rintro rfl <;> simp at hr
    obtain ⟨h1, h2, h3, h4, h5⟩ := hfree
    have hput : c.put P r v = c := by cases r <;> simp_all [ClockRegs.put]
    have hone := clockWrites_unprotected (P := P) h1 h2 h3 v c
    rw [hput] at hone
    exact hone.append (ih hws)

/-- The calendar write takes eleven slots and, with nothing pending, only ends an open pair (R128). -/
theorem calendarBody_schedule (h : s.Undisturbed (10 + k + 1)) (hbody : calendarBody s = .ok () t) :
    (s.slotsAhead (11 + k)).drop 11 = t.slotsAhead k ∧ (s.feedQuiet → t.clk = s.clk.discard) := by
  obtain ⟨hread, hafter⟩ := h.txRead .rtcccr
  let ws : List (RegId × Word) := calendarWrites (s.afterSlot.busRead .block .rtcccr).1 s.ts
  have hwrites : (s.slotRead .rtcccr).Undisturbed (ws.length + k) := hafter
  have ht : t = (s.slotRead .rtcccr).slotWrites ws := by
    rw [calendarBody, hread, Run.andThen_ok] at hbody
    exact (Run.ok.inj (hbody.symm.trans hwrites.txWrites.1)).2
  have hahead := (s.slotRead .rtcccr).slotWrites_ahead ws k
  rw [ht]
  refine ⟨?_, fun hp => ?_⟩
  · rw [← hahead, State.slotRead_ahead, Nat.add_right_comm 10 1 k, State.slotsAhead_succ, List.drop_succ_cons]
    rfl
  · exact clockWrites_calendar (by simp [ws, calendarWrites]) s.clk _ k hwrites rfl (h.slotRead_clk hp .rtcccr)

end

/-! ### One round of BOOT's read -/

/-- How a round of BOOT's tear-free read ends, begun in `s` and ended in `t`, where `before` is what the history showed
(R132): it stays in flight, or it has ended BOOT; `rests`: no agent steps during CLKDIS's transactions. -/
def BootRound (s t : State) (rests : Prop) (before : List BusEvent) : Prop :=
  (t.inflight = some .boot ∧ t.booted = s.booted ∧ t.cs = s.cs ∧ t.ts = s.ts ∧ t.status = s.status ∧
    t.clk = { s.clk with feed := .idle } ∧ t.rtc.clken = s.rtc.clken ∧ t.rtc.ccrx = s.rtc.ccrx ∧
    ∃ a b, a ≠ b ∧ t.hist = fullReadEvents b ++ fullReadEvents a ++ before) ∨
  (t.inflight = none ∧ t.booted = true ∧
    t.clk = { s.clk with pllconLive := 0#2, pllcfgLive := ⟨0#16, 0#8⟩, feed := .idle, cclkcfg := 0#8,
                         clksrcsel := 0#2 } ∧
    t.ts.valid s.params = true ∧ t.rtc.ccrx = s.rtc.ccrx ∧
    ((t.status = 0x110#32 ∧ t.ts = t.cs.decodeCT ∧ t.rtc.clken = s.rtc.clken ∧
        t.hist =
          disableEvents (pllstatWord s.clk.pllconLive s.clk.pllcfgLive)
            ++ fullReadEvents t.cs ++ fullReadEvents t.cs ++ before) ∨
      (t.status = 0x140#32 ∧ t.cs.decodeCT.valid s.params = false ∧ t.ts = epoch s.params ∧ t.rtc.clken = true ∧
        (rests → t.rtc.time = epoch s.params) ∧
        t.hist =
          disableEvents (pllstatWord s.clk.pllconLive s.clk.pllcfgLive)
            ++ calendarEvents s.rtc.ccrWord (epoch s.params)
            ++ fullReadEvents t.cs ++ fullReadEvents t.cs ++ before)))

theorem CalendarRegs.ccrWord_congr {c d : CalendarRegs} (h1 : d.clken = c.clken) (h2 : d.ccrx = c.ccrx) :
    d.ccrWord = c.ccrWord := by
  rw [CalendarRegs.ccrWord, CalendarRegs.ccrWord, h1, h2]

theorem SameButSlots.own {s t : State} (h : SameButSlots s t) (ts : RtcTime) (cs : Capture) :
    SameButSlots { s with ts := ts, cs := cs } { t with ts := ts, cs := cs } := by
  constructor
  conv_lhs => rw [h.eq]

/-- CLKDIS's transactions as the last step of BOOT, from a state `z` that the calendar init has left (R130). -/
theorem bootDisable_undisturbed {s z t : State} {k : Nat} {ts : RtcTime} {cs : Capture} {f : Flag}
    (hz : SameButSlots { s with ts := ts, cs := cs } z) (hclk : z.clk = s.clk.discard) (h : z.Undisturbed (11 + k + 1))
    (hend : ((disableBody z).andThen fun _ t => .ok () ({ t with booted := true }.setFlags [.done, f])).outcome = .next t) :
    ∃ rtc draws env, t = { s with
      ts := ts
      cs := cs
      booted := true
      status := statusOf [.done, f]
      clk := s.clk.disabled
      rtc := rtc
      hist := disableEvents (pllstatWord s.clk.pllconLive s.clk.pllcfgLive) ++ z.hist
      draws := draws
      env := env } ∧
    (rtc.clken = z.rtc.clken ∧ rtc.ccrx = z.rtc.ccrx) ∧ ((∀ sl ∈ z.slotsAhead 12, sl = []) → rtc = z.rtc) := by
  have hquiet : z.feedQuiet := by
    rw [State.feedQuiet, hclk]
    exact ⟨rfl, rfl⟩
  obtain ⟨x, hdisable, -, hframe, hxclk, hhist⟩ := disableBody_undisturbed h hquiet
  have hrtc := disableBody_rtc h hdisable
  rw [hdisable] at hend
  cases hend
  have hall := (hz.trans hframe).eq
  rw [hxclk, hhist, hclk] at hall
  refine ⟨x.rtc, x.draws, x.env, ?_, hrtc⟩
  conv_lhs => rw [hall]
  rfl

section
variable {s t u : State} {w : Capture}

/-- The end of BOOT once its words have been captured (R130). -/
theorem finishBoot_undisturbed (hp : s.feedQuiet) (hepoch : s.params.epochDow.toNat ≤ 6) (hu : u.Undisturbed 23)
    (hf : Fetched 6 (fullReadEvents w ++ fullReadEvents w) s u) (hrest : s.inflight = none)
    (hend : (finishBoot (u.captured w)).outcome = .next t) :
    (t.run = s.run ∧ t.tickHang = s.tickHang ∧ t.msp = s.msp ∧ t.psp = s.psp ∧ t.mem = s.mem) ∧
      BootRound s t (∀ sl ∈ (s.slotsAhead 29).drop 17, sl = []) s.hist := by
  have hcap : (u.captured w).Undisturbed (10 + 12 + 1) := hu.own
  have hclk : u.clk = s.clk.discard := hf.clk hp
  have hparams : u.params = s.params := hf.frame.params
  have hword : u.rtc.ccrWord = s.rtc.ccrWord := CalendarRegs.ccrWord_congr hf.clken hf.ccrx
  have hdis := ClockRegs.disabled_of_nonePending hp.1 hp.2
  rw [finishBoot] at hend
  obtain ⟨hvalid, hbody⟩ | ⟨hvalid, y, hbody, hcal, hy, hframe, hrtc, hhist⟩ := validateBody_undisturbed hcap <;>
    rw [hbody, Run.andThen_ok] at hend <;>
    rw [State.captured_ts, State.captured_params, hparams] at hvalid
  · obtain ⟨rtc, draws, env, rfl, ⟨hclken, hccrx⟩, -⟩ :=
      bootDisable_undisturbed (k := 11) (hf.frame.own w.decodeCT w) hclk hcap hend
    refine ⟨⟨rfl, rfl, rfl, rfl, rfl⟩, .inr ⟨hrest, rfl, hdis, hvalid, hccrx.trans hf.ccrx,
      .inl ⟨rfl, rfl, hclken.trans hf.clken, ?_⟩⟩⟩
    change _ ++ u.hist = _
    rw [hf.hist]
    simp only [List.append_assoc]
  · let v : State := { u.captured w with ts := epoch (u.captured w).params }
    obtain ⟨hahead, hyclk⟩ := calendarBody_schedule (s := v) (k := 12) hcap.own hcal
    have hquiet : v.feedQuiet := by
      change u.feedQuiet
      rw [State.feedQuiet, hclk]
      exact ⟨rfl, rfl⟩
    have hdiscard : y.clk = s.clk.discard := by
      have hv : v.clk = s.clk.discard := hclk
      rw [hyclk hquiet, hv]
      rfl
    have hslots : y.slotsAhead 12 = (s.slotsAhead 29).drop 17 := by
      have hv : v.slotsAhead 23 = u.slotsAhead 23 := State.slotsAhead_congr (s := v) (t := u) rfl rfl 23
      have hu' := hf.ahead 23
      rw [← hahead, hv, ← hu', List.drop_drop]
    have hepochs : epoch (u.captured w).params = epoch s.params := congrArg epoch hparams
    rw [hepochs] at hframe hrtc hhist
    rw [State.captured_rtc, State.captured_hist] at hhist
    obtain ⟨rtc, draws, env, rfl, ⟨hclken, hccrx⟩, hstill⟩ :=
      bootDisable_undisturbed (k := 0) ((hf.frame.own (epoch s.params) w).trans hframe) hdiscard hy hend
    rw [hrtc] at hclken hccrx
    refine ⟨⟨rfl, rfl, rfl, rfl, rfl⟩, .inr ⟨hrest, rfl, hdis, epoch_valid hepoch, hccrx.trans hf.ccrx,
      .inr ⟨rfl, hvalid, rfl, hclken, fun hnone => ?_, ?_⟩⟩⟩
    · rw [hslots] at hstill
      change rtc.time = _
      rw [hstill hnone, hrtc]
    · change _ ++ y.hist = _
      rw [hhist, hf.hist, hword]
      simp only [List.append_assoc]

/-- A round of BOOT's tear-free read between calendar steps, with nothing pending (R132, R173). -/
theorem readLoop_boot_undisturbed (h : s.Undisturbed 29) (hp : s.feedQuiet) (hepoch : s.params.epochDow.toNat ≤ 6)
    (hrest : s.inflight = none) (hend : (readLoop .boot s).outcome = .next t) :
    (t.run = s.run ∧ t.tickHang = s.tickHang ∧ t.msp = s.msp ∧ t.psp = s.psp ∧ t.mem = s.mem) ∧
      BootRound s t (∀ sl ∈ (s.slotsAhead 29).drop 17, sl = []) s.hist := by
  obtain ⟨a, b, u, hne, hread, -, hf⟩ | ⟨w, u, hread, hu, hf⟩ := State.Undisturbed.readLoop_cases (k := 23) h .boot <;>
    rw [hread] at hend
  · cases hend
    have hu := hf.frame.eq
    have hclk : u.clk = { s.clk with feed := .idle } := by
      rw [hf.clk hp, ClockRegs.discard_of_nonePending hp.1 hp.2]
    exact ⟨⟨(congrArg State.run hu :), (congrArg State.tickHang hu :), (congrArg State.msp hu :),
      (congrArg State.psp hu :), (congrArg State.mem hu :)⟩,
      .inl ⟨rfl, (congrArg State.booted hu :), (congrArg State.cs hu :), (congrArg State.ts hu :),
        (congrArg State.status hu :), hclk, hf.clken, hf.ccrx, a, b, hne, hf.hist⟩⟩
  · exact finishBoot_undisturbed hp hepoch hu hf hrest hend

end

/-- What a round is judged by: the stack pointers, memory, the calendar's counters, the history and the schedule of the state
it begins in are no part of it. -/
theorem BootRound.transfer {s u t : State} {rests rests' : Prop} {before : List BusEvent}
    (hu : u = { s with msp := u.msp, psp := u.psp, mem := u.mem, rtc := u.rtc, inflight := u.inflight, hist := u.hist,
                       draws := u.draws, env := u.env })
    (hclken : u.rtc.clken = s.rtc.clken) (hccrx : u.rtc.ccrx = s.rtc.ccrx) (hrests : rests' → rests)
    (h : BootRound u t rests before) : BootRound s t rests' before := by
  have hword := CalendarRegs.ccrWord_congr hclken hccrx
  unfold BootRound at h
  rw [hclken, hccrx, hword, hu] at h
  exact h.imp_right fun ⟨h1, h2, h3, h4, h5, h6⟩ => ⟨h1, h2, h3, h4, h5,
    h6.imp_right fun ⟨a, b, c, d, e, f⟩ => ⟨a, b, c, d, fun hn => e (hrests hn), f⟩⟩

/-- Settles O35: the memory steps and a round of the read, or the round alone. -/
theorem bootPostcondition : Obligations.BootPostcondition := by
  rintro s t hrun hhang hp ⟨-, -, -, hr, hi, hepoch, -⟩ hm P n k round
  refine ⟨fun hrest hbooted hslots hexec => ?_, fun hflight hslots hstep => ?_⟩
  · have hs : s.Undisturbed (bootSlots s.params + 29) := ⟨hslots, hrun, hhang⟩
    obtain ⟨u, hbody, hu, hstored⟩ := memoryBody_undisturbed hs hr hi
    have hboot := hstored.boot hr hm
    have hclk : u.clk = s.clk := by rw [hboot]
    have hparams : u.params = s.params := by rw [hboot]
    have hloop : (readLoop .boot u).outcome = .next t := by
      rw [← hexec]
      change _ = execBoot s
      rw [execBoot, whenRunning_of_running hrun, hbooted, if_neg Bool.false_ne_true, hbody, Run.andThen_ok]
    obtain ⟨⟨hrun', hhang', hmsp, hpsp, hmem⟩, hround⟩ := readLoop_boot_undisturbed hu
      (by rw [State.feedQuiet, hclk]; exact hp) (by rw [hparams]; exact hepoch) (by rw [hboot]; exact hrest) hloop
    have hmem' : t.mem = bootMemory s.params s.mem := hmem.trans hstored.mem
    rw [hmem']
    have hahead : u.slotsAhead 29 = (s.slotsAhead (bootSlots s.params + 29)).drop (bootSlots s.params) := by
      have hset : s.setStacks.slotsAhead (bootSlots s.params + 29) = s.slotsAhead (bootSlots s.params + 29) :=
        State.slotsAhead_congr (s := s.setStacks) (t := s) rfl rfl _
      rw [← hstored.ahead, hset]
    refine ⟨hrun'.trans hu.run, hhang'.trans hu.hang, hmsp.trans (congrArg State.msp hboot :),
      hpsp.trans (congrArg State.psp hboot :), fun i => bootMemory_image hr hm, fun a => bootMemory_bss hr hm,
      fun a => bootMemory_outside hr, ?_⟩
    have hhist : u.hist = bootMemoryEvents P s.mem ++ s.hist := by rw [hboot]
    rw [hhist] at hround
    refine hround.transfer ?_ hstored.clken hstored.ccrx fun hnone => ?_
    · conv_lhs => rw [hboot]
      rw [hboot]
    · rw [hahead, List.drop_drop]
      exact hnone
  · have hs : { s with inflight := none }.Undisturbed 29 :=
      State.Undisturbed.recastBus ⟨hslots, hrun, hhang⟩ s.clk s.hist none
    rw [step_of_flight hflight] at hstep
    obtain ⟨⟨hrun', hhang', hmsp, hpsp, hmem⟩, hround⟩ := readLoop_boot_undisturbed hs hp hepoch rfl hstep
    refine ⟨hrun'.trans hrun, hhang'.trans hhang, hmsp, hpsp, hmem, ?_⟩
    have hahead : { s with inflight := none }.slotsAhead 29 = s.slotsAhead 29 :=
      State.slotsAhead_congr (s := { s with inflight := none }) (t := s) rfl rfl 29
    rw [hahead] at hround
    exact hround.transfer rfl rfl rfl fun h => h

end Sys2Proof.Machine
end
